-- ==== Sys2Proof/Word.lean ====
section
/-! DEFINITION. The words of the F6: bytes, timebase values, and the index types of its tables. -/

namespace Sys2Proof

/-- A byte of a frame, record or word (spec 11). -/
abbrev Byte := BitVec 8

/-- A timebase value, deadline or publish time: 32 bits, 1 µs per count (R161, R162). -/
abbrev Time := BitVec 32

/-- A byte address of buffer memory: 40 bits (spec 1.1). -/
abbrev Address := BitVec 40

/-- One of the agent ports P0–P5. -/
abbrev Port := Fin 6

/-- One of the stream contexts S0–S15. -/
abbrev StreamId := Fin 16

/-- One of the buffer records B0–B63. -/
abbrev RecordId := Fin 64

end Sys2Proof
end

