-- ==== Sys2Proof/Syntax.lean ====
section
/-! DEFINITION. The commands of the F6: one constructor per row of spec/opcode_table.json. -/

namespace Sys2Proof

/-- The five transactions (R168, R189). -/
inductive TransactionKind where
  | submit
  | collect
  | status
  | notice
  | portReset
deriving DecidableEq, Repr

/-- The moments of a SUBMIT (R168, R169): the falling edge of select, the end of the code byte, where the port
accepts or refuses the frame, and the rising edge of select, after the bytes received behind the code.
(DEDUCED, unsafe: log entry 5.) -/
inductive SubmitEdge where
  | fall
  | code
  | rise (bytes : List Byte)
deriving DecidableEq, Repr

/-- The moments of an outgoing transaction (R168): the falling edge of select, the end of the code byte, where
the port takes its copy, and the rising edge of select, after the agent has clocked out a number of bytes behind
the code. (DEDUCED, unsafe: log entry 5.) -/
inductive ReadEdge where
  | fall
  | code
  | rise (clocked : Nat)
deriving DecidableEq, Repr

/-- The moments of a PORT_RESET, and of a transaction that is none of the five (R168, R177): the two edges of
select, the rising one after a number of bytes clocked behind the code. (DEDUCED, unsafe: log entry 5.) -/
inductive SelectEdge where
  | fall
  | rise (clocked : Nat)
deriving DecidableEq, Repr

/-- The commands. A request row names the port whose request slot holds the frame under execution; the
frame, submitted by SUBMIT, carries the request's fields. -/
inductive Instr where
  /-- SUBMIT (R169, R170). -/
  | submit (p : Port) (edge : SubmitEdge)
  /-- COLLECT (R171). -/
  | collect (p : Port) (edge : ReadEdge)
  /-- STATUS (R172). -/
  | status (p : Port) (edge : ReadEdge)
  /-- NOTICE (R173, R187, R188). -/
  | notice (p : Port) (edge : ReadEdge)
  /-- PORT_RESET (R177). -/
  | portReset (p : Port) (edge : SelectEdge)
  /-- UNKNOWN_TRANSACTION (R168): its code byte is `none` when select rises before the byte is complete. -/
  | unknownTransaction (p : Port) (code : Option Byte) (edge : SelectEdge)
  /-- ATTACH (R174). -/
  | attach (p : Port)
  /-- DETACH (R176). -/
  | detach (p : Port)
  /-- SET_NOTICE_MASK (R175). -/
  | setNoticeMask (p : Port)
  /-- OPEN_STREAM (R29). -/
  | openStream (p : Port)
  /-- CLOSE_STREAM (R32). -/
  | closeStream (p : Port)
  /-- JOIN (R41). -/
  | join (p : Port)
  /-- LEAVE (R45). -/
  | leave (p : Port)
  /-- ACQUIRE_WRITE (R49). -/
  | acquireWrite (p : Port)
  /-- PUBLISH (R56). -/
  | publish (p : Port)
  /-- DISCARD (R65). -/
  | discard (p : Port)
  /-- FILL (R143). -/
  | fill (p : Port)
  /-- REFILL_FALLBACK (R144). -/
  | refillFallback (p : Port)
  /-- ACQUIRE_READ (R79). -/
  | acquireRead (p : Port)
  /-- RELEASE (R83). -/
  | release (p : Port)
  /-- RENEW (R101). -/
  | renew (p : Port)
  /-- QUERY_STREAM (R46). -/
  | queryStream (p : Port)
  /-- QUERY_BUFFER (R158). -/
  | queryBuffer (p : Port)
  /-- QUERY_DEVICE (R159). -/
  | queryDevice (p : Port)
  /-- UNKNOWN_REQUEST (R155). -/
  | unknownRequest (p : Port)
  /-- FORCED_DETACH (R179). -/
  | forcedDetach (p : Port)
  /-- FILL_REPORT_TAKEN (R140). -/
  | fillReportTaken
  /-- WRITE_EXPIRY_TAKEN (R103). -/
  | writeExpiryTaken
  /-- READ_EXPIRY_TAKEN (R104). -/
  | readExpiryTaken
  /-- CADENCE_REPORT_TAKEN (R127). -/
  | cadenceReportTaken (k : StreamId)
  /-- LEASE_DEADLINE_REACHED (R102). -/
  | leaseDeadlineReached
  /-- WATCH_DEADLINE_REACHED (R121). -/
  | watchDeadlineReached (k : StreamId)
  /-- FILL_RESPONSE (R136): FRTAG and FRERR. -/
  | fillResponse (tag : BitVec 4) (error : Bool)
  /-- BURST_TIMEOUT (R137). -/
  | burstTimeout
  /-- QUIET_END (R132). -/
  | quietEnd
  /-- DEVICE_RESET (R163). -/
  | deviceReset
  /-- INIT_END (R164). -/
  | initEnd
  /-- BURST_ACCEPTED (R195). -/
  | burstAccepted
  /-- RESET_RELEASE (R161, R163). -/
  | resetRelease
deriving DecidableEq, Repr

end Sys2Proof
end

