-- ==== Sys2Proof/Decode.lean ====
section
/-! DEFINITION. What bytes spell a command. No row of spec/opcode_table.json gives bits, so no word does; the
bytes of one transaction on a port spell its commands by the code byte (R189). Requests are read from their
frames in Machine/Operands.lean. -/

namespace Sys2Proof

/-- The command a word of `nbits` bits spells by the table's bits: none, for the table gives no row bits. -/
def decodeTableWord (_nbits _w : Nat) : Option Instr := none

/-- The five transactions in the order of R189's table. -/
def allTransactions : List TransactionKind := [.submit, .collect, .status, .notice, .portReset]

/-- The code byte of a transaction (R189). -/
def TransactionKind.code : TransactionKind → Byte
  | .submit => 0x5A
  | .collect => 0xC3
  | .status => 0x3C
  | .notice => 0xA5
  | .portReset => 0x96

/-- The transaction a code byte names, `none` for a byte that is none of the five codes (R168, R189). -/
def transactionOf (code : Byte) : Option TransactionKind := allTransactions.find? fun x => x.code = code

/-- The commands of one whole transaction on a port: the falling edge of select, the end of the code byte and the
rising edge of select, after the bytes behind the code (R168, R189). (DEDUCED, unsafe: log entry 5.) -/
def transactionCommands (p : Port) (code : Byte) (bytes : List Byte) : List Instr :=
  match transactionOf code with
  | some .submit => [.submit p .fall, .submit p .code, .submit p (.rise bytes)]
  | some .collect => [.collect p .fall, .collect p .code, .collect p (.rise bytes.length)]
  | some .status => [.status p .fall, .status p .code, .status p (.rise bytes.length)]
  | some .notice => [.notice p .fall, .notice p .code, .notice p (.rise bytes.length)]
  | some .portReset => [.portReset p .fall, .portReset p (.rise bytes.length)]
  | none => [.unknownTransaction p (some code) .fall, .unknownTransaction p (some code) (.rise bytes.length)]

end Sys2Proof
end

