-- ==== Sys2Proof/Config.lean ====
section
/-! DEFINITION. The capacities and periods the part fixes (spec 00 "Capacities at a glance").
The spec leaves no value of a result open, so no constant here is without a body. -/

namespace Sys2Proof.Config

/-- Entries of the lease table (R95). -/
abbrev leaseEntries : Nat := 128

/-- Jobs of the fill engine's queue (R131). -/
abbrev fillJobs : Nat := 8

/-- Handles of one port's expired-handle list (R106). -/
abbrev expiredHandles : Nat := 8

/-- Ordinary records of one port's notice queue; one OVERFLOW record may stand beside them (R181). -/
abbrev ordinaryNotices : Nat := 31

/-- Streams a port may produce at once (R26). -/
abbrev producerRoles : Nat := 4

/-- Streams a port may consume at once (R26). -/
abbrev consumerRoles : Nat := 8

/-- Largest request payload in bytes (R170). -/
abbrev requestPayload : Nat := 112

/-- A lease unit in microseconds (R96). -/
abbrev leaseUnit : Nat := 100

/-- A burst times out this many microseconds after its issue (R137). -/
abbrev burstTimeout : Time := 64

/-- The fill engine leaves QUIET when the timebase reaches this value (R132). -/
abbrev quietPeriod : Time := 1000

/-- Bytes of one burst (R134). -/
abbrev burstBytes : Address := 256

/-- Smallest and largest buffer length in bytes (R17). -/
abbrev minLength : Nat := 4096
/-- Largest buffer length in bytes (R17). -/
abbrev maxLength : Nat := 67108864
/-- One past the last byte of the address space (R17). -/
abbrev addressTop : Nat := 1099511627776

/-- Smallest and largest interval in range, in microseconds (R114). -/
abbrev minInterval : Nat := 500
/-- Largest interval in range, in microseconds (R114). -/
abbrev maxInterval : Nat := 2000000

/-- Family code of QUERY_DEVICE (R191). -/
abbrev familyCode : Byte := 0x4E
/-- Revision of QUERY_DEVICE (R191). -/
abbrev revision : Byte := 0x12

end Sys2Proof.Config
end

