-- ==== Sys2Proof/Machine/State.lean ====
section
/-! DEFINITION. The state of the F6 as plain data, the reasons a step can stop, and the state right after
reset. Fields that the spec calls absent in some states live in the constructors of the states that have them. -/

namespace Sys2Proof.Machine

/-! ## Sets of ports -/

/-- A set of ports (R7): its characteristic vector, so that a set has one form. -/
abbrev PortSet := Vector Bool 6

/-- The set with no port. -/
def PortSet.empty : PortSet := Vector.replicate 6 false

/-! ## Buffer records (spec 01) -/

/-- What a handle allows (R11). -/
inductive HandleKind where
  | write
  | read
deriving DecidableEq, Repr

/-- The sequence and publish time of a published frame (R56). -/
structure FrameStamp where
  sequence : BitVec 32
  publishTime : Time
deriving DecidableEq, Repr

/-- What an assigned record takes from OPEN_STREAM (R5): its stream and its region. -/
structure Assignment where
  stream : StreamId
  base : Address
  length : BitVec 32
deriving DecidableEq, Repr

/-- The states of a record of role FRAME, each with the fields R1 gives it. The pending set of a READY
record is present in a QUEUE stream and absent in a LATEST stream. -/
inductive FrameState where
  | free
  | writing (writer : Port)
  | ready (frame : FrameStamp) (pending : Option PortSet) (hold : PortSet)
  | draining (frame : FrameStamp) (hold : PortSet)
  | settling
deriving DecidableEq, Repr

/-- Whether the fallback buffer holds a complete pattern (R4). -/
inductive FallbackCondition where
  | filling
  | valid
  | invalid
deriving DecidableEq, Repr

/-- What a record is used for (R1): UNASSIGNED, or assigned with role FRAME or role FALLBACK. -/
inductive RecordUse where
  | unassigned
  | frame (a : Assignment) (st : FrameState)
  | fallback (a : Assignment) (hold : PortSet) (condition : FallbackCondition)
deriving DecidableEq, Repr

/-- The core's reference to a fill job (R8). Whether a named job reads QUEUED or ACTIVE is the fill
engine's own state. -/
inductive FillRef where
  | noJob
  | named (tag : BitVec 8)
  | cancelling (tag : BitVec 8)
deriving DecidableEq, Repr

/-- A buffer record (R1); its index is its place in the table. -/
structure BufferRecord where
  generation : BitVec 8
  fill : FillRef
  use : RecordUse
deriving DecidableEq, Repr

/-! ## Streams (spec 02) -/

/-- Delivery policy (R21). -/
inductive Policy where
  | queue
  | latest
deriving DecidableEq, Repr

/-- Overflow rule (R21). -/
inductive OverflowRule where
  | block
  | dropOldest
deriving DecidableEq, Repr

/-- Why a stream entered CLOSING (R21). -/
inductive CloseOrigin where
  | request
  | departure
  | failure
deriving DecidableEq, Repr

/-- The states of a live stream (R21); the close origin is present in CLOSING alone. -/
inductive StreamPhase where
  | preparing
  | opened
  | orphaned
  | closing (origin : CloseOrigin)
deriving DecidableEq, Repr

/-- The cadence parameters a stream is opened with (R21, R113). -/
structure CadenceParams where
  enable : Bool
  tolerance : Nat
  lockCount : Nat
  unlockCount : Nat
  stallCount : Nat
deriving DecidableEq, Repr

/-- A consumer entry (R22). -/
structure Consumer where
  port : Port
  holdLimit : Nat
  repeatAllowed : Bool
  lastDelivered : Option (BitVec 32)
  skipped : Nat
  readHolds : Nat
deriving DecidableEq, Repr

/-- A live stream (R21). The fallback pattern is present exactly when the stream has a fallback; the
fallback record is the FALLBACK record that names the stream (R20). -/
structure Stream where
  phase : StreamPhase
  producer : Port
  producerPresent : Bool
  policy : Policy
  overflow : OverflowRule
  frameCount : Nat
  fallbackPattern : Option (BitVec 32)
  consumerLimit : Nat
  writeLease : BitVec 16
  readLease : BitVec 16
  cadence : CadenceParams
  nextSequence : BitVec 32
  ready : List RecordId
  free : List RecordId
  consumers : List Consumer
  producerWaiting : Bool
  published : BitVec 32
  dropped : BitVec 32
deriving DecidableEq, Repr

/-! ## Leases (spec 05) -/

/-- A lease entry (R95). -/
structure LeaseEntry where
  handle : BitVec 16
  port : Port
  index : RecordId
  kind : HandleKind
  deadline : Time
  marked : Bool
deriving DecidableEq, Repr

/-! ## Cadence trackers (spec 06) -/

/-- The states of a tracker (R113). -/
inductive TrackerState where
  | idle
  | acquiring
  | locked
  | stalled
deriving DecidableEq, Repr

/-- A change of state waiting in a tracker's report (R113); "none" is the absence of one. -/
inductive StateChange where
  | locked
  | lost
  | stalled
  | resumed
deriving DecidableEq, Repr

/-- A cadence tracker (R113). Intervals are counts of microseconds. -/
structure Tracker where
  state : TrackerState
  params : CadenceParams
  interval : Option Nat
  lastPublish : Option Time
  lockCounter : Nat
  unlockCounter : Nat
  missCounter : Nat
  watch : Option Time
  late : Nat
  change : Option StateChange
deriving DecidableEq, Repr

/-! ## Fill engine (spec 07) -/

/-- The kinds of fill job (R131). -/
inductive FillKind where
  | frameFill
  | fallbackFill
deriving DecidableEq, Repr

/-- A fill job (R131); `stop` is the field the spec calls end. Addresses are taken modulo 2^40.
(DEDUCED, safe: log entry 10.) -/
structure FillJob where
  tag : BitVec 8
  index : RecordId
  kind : FillKind
  requester : Port
  pattern : BitVec 32
  start : Address
  stop : Address
  next : Address
  cancel : Bool
deriving DecidableEq, Repr

/-- The burst in flight (R134, R135, R137). FAVALID is high while it is not accepted (R195). -/
structure Burst where
  address : Address
  tag : BitVec 4
  issuedAt : Time
  accepted : Bool
deriving DecidableEq, Repr

/-- Why a job failed (R138). -/
inductive FailCause where
  | error
  | timeout
deriving DecidableEq, Repr

/-- How a job ended (R138); a failing offset is in units of 256 bytes. -/
inductive FillOutcome where
  | done
  | failed (cause : FailCause) (offset : BitVec 24)
  | cancelled
deriving DecidableEq, Repr

/-- A completion report (R138). -/
structure FillReport where
  tag : BitVec 8
  index : RecordId
  kind : FillKind
  requester : Port
  outcome : FillOutcome
deriving DecidableEq, Repr

/-- The states of the engine (R132): RUNNING has one burst in flight, REPORTING one report. -/
inductive EngineState where
  | quiet
  | standby
  | running (b : Burst)
  | reporting (r : FillReport)
deriving DecidableEq, Repr

/-- The fill engine (R131, R132, R135). -/
structure FillEngine where
  state : EngineState
  jobs : List FillJob
  tagCounter : BitVec 8
  burstCounter : BitVec 4
deriving DecidableEq, Repr

/-- The data beats of one accepted burst (R195): its address and tag, and 32 beats of 8 bytes, each in
address order. (DESIGN CHOICE, unsafe: log entry 11.) -/
structure BurstBeats where
  address : Address
  tag : BitVec 4
  beats : List (List Byte)
deriving DecidableEq, Repr

/-! ## Notices (spec 10) -/

/-- The notice kinds (R182, R194). NONE is never enqueued and is no kind. -/
inductive NoticeKind where
  | streamReady
  | openFailed
  | streamClosing
  | streamClosed
  | producerGone
  | consumerJoined
  | consumerLeft
  | frameAvailable
  | frameDropped
  | bufferAvailable
  | writeLeaseExpired
  | readLeaseExpired
  | fillDone
  | fillFailed
  | cadenceLocked
  | cadenceLost
  | frameLate
  | producerStalled
  | producerResumed
  | overflow
deriving DecidableEq, Repr

/-- A notice record (R182). -/
structure Notice where
  kind : NoticeKind
  stream : Option StreamId
  count : Nat
  time : Time
  detail : Option (BitVec 32)
deriving DecidableEq, Repr

/-! ## Agent ports (spec 09) -/

/-- The states of a port (R165, R166). -/
inductive PortState where
  | init
  | detached
  | attached
  | resetting
deriving DecidableEq, Repr

/-- The result codes (R157, R194). -/
inductive Result where
  | ok
  | empty
  | badFrame
  | notAttached
  | alreadyAttached
  | staleSession
  | badRequest
  | badParameter
  | badDescriptor
  | regionConflict
  | noStream
  | noRecords
  | unknownStream
  | streamState
  | notProducer
  | notMember
  | alreadyMember
  | roleConflict
  | memberLimit
  | roleLimit
  | noCapacity
  | noBuffer
  | noFrame
  | holdLimit
  | staleHandle
  | expired
  | wrongKind
  | fillPending
  | fillQueueFull
  | noLease
  | fallbackHeld
  | noFallback
deriving DecidableEq, Repr

/-- A request frame that passed the port's checks (R170). -/
structure RequestFrame where
  code : Byte
  session : Byte
  payload : List Byte
deriving DecidableEq, Repr

/-- A response as the core or the port places it (R157, R170); COLLECT adds length and CRC. -/
structure ResponseFrame where
  result : Result
  code : Byte
  payload : List Byte
deriving DecidableEq, Repr

/-- What a request slot can hold (R167, R178). -/
inductive SlotItem where
  | request (f : RequestFrame)
  | forcedDetach
deriving DecidableEq, Repr

/-- The request slot (R167). -/
inductive RequestSlot where
  | empty
  | held (i : SlotItem)
  | taken (i : SlotItem)
deriving DecidableEq, Repr

/-- The transaction a port is serving, between the end of its code byte and the rising edge of select
(R168). A COLLECT remembers whether its copy is that of a FULL slot (R171), a STATUS which latches its
copy showed set (R172). A NOTICE remembers whether its copy is the head record in transfer, the transfer
tally, and the sum of what the tallied occurrences added (R187, R188). (DEDUCED, unsafe: log entry 5.) -/
inductive Transaction where
  | submit (accepted : Bool)
  | collect (copy : List Byte) (full : Bool)
  | status (copy : List Byte) (rejected frameError : Bool)
  | notice (copy : List Byte) (transfer : Bool) (tally : Nat) (sum : BitVec 32)
deriving DecidableEq, Repr

/-- The select line of a port (R165, R168, R195): high; low since a falling edge after reset release; or held low
across reset release, in which case it starts no transaction until it has risen. -/
inductive SelectLine where
  | high
  | low
  | held
deriving DecidableEq, Repr

/-- An agent port (R165). `mask` is the mask word of R191; `sdo` is what the port has shifted out since the
latest falling edge of its select line, the byte under the code byte included (R189, R195). (DESIGN CHOICE,
unsafe: log entry 12.) -/
structure AgentPort where
  state : PortState
  inForce : Bool
  session : BitVec 8
  request : RequestSlot
  response : Option ResponseFrame
  mask : BitVec 32
  responseAttention : Bool
  noticeAttention : Bool
  rejected : Bool
  frameError : Bool
  notices : List Notice
  expired : List (BitVec 16)
  select : SelectLine
  transaction : Option Transaction
  sdo : List Byte
deriving DecidableEq, Repr

/-! ## Broker core (spec 08) -/

/-- An item the arbiter has granted (R149), with what the core read from the presenting block at the
grant (R150). -/
inductive Item where
  | request (p : Port)
  | forcedDetach (p : Port)
  | fillReport (r : FillReport)
  | leaseExpiry (e : LeaseEntry)
  | cadenceReport (k : StreamId) (late : Nat) (change : Option StateChange) (interval : Option Nat)
deriving DecidableEq, Repr

/-- The execution in progress (R150): its item and the timebase value at the grant.
(DESIGN CHOICE, unsafe: log entry 4.) -/
structure Execution where
  item : Item
  takenAt : Time
deriving DecidableEq, Repr

/-- The state of the F6. -/
structure State where
  /-- Buffer table (R1). -/
  records : Vector BufferRecord 64
  /-- Stream table (R21); `none` is a CLOSED context. -/
  streams : Vector (Option Stream) 16
  /-- Lease table, earliest deadline first (R95). -/
  leases : List LeaseEntry
  /-- Cadence trackers, one per stream (R113). -/
  trackers : Vector Tracker 16
  /-- Fill engine (R131). -/
  engine : FillEngine
  /-- Agent ports (R165). -/
  ports : Vector AgentPort 6
  /-- The execution in progress; `none` when the core is free (R149). -/
  core : Option Execution
  /-- Round-robin pointer of the arbiter (R152). -/
  pointer : Port
  /-- Timebase (R161). -/
  timebase : Time
  /-- RESETn is low, or power-on has not ended (R161, R195). -/
  resetAsserted : Bool
  /-- Beats of the burst accepted last (R195). (DESIGN CHOICE, unsafe: log entry 11.) -/
  fillBeats : Option BurstBeats
  /-- Commands that wait, first in first out: the model's own field. (DESIGN CHOICE, unsafe: log entry 2.) -/
  pending : List Instr
deriving DecidableEq, Repr

/-! ## Values after reset -/

/-- A record after device reset (R2). -/
def BufferRecord.reset : BufferRecord := { generation := 0, fill := .noJob, use := .unassigned }

/-- The cadence parameters of a tracker after device reset: each at the lowest value of its range (R113). -/
def CadenceParams.lowest : CadenceParams :=
  { enable := false, tolerance := 1, lockCount := 2, unlockCount := 1, stallCount := 1 }

/-- A cleared tracker with the given parameters (R113). -/
def Tracker.cleared (c : CadenceParams) : Tracker :=
  { state := .idle, params := c, interval := none, lastPublish := none, lockCounter := 0,
    unlockCounter := 0, missCounter := 0, watch := none, late := 0, change := none }

/-- The fill engine after device reset (R132, R135). -/
def FillEngine.reset : FillEngine := { state := .quiet, jobs := [], tagCounter := 0, burstCounter := 0 }

/-- A port after device reset (R165). -/
def AgentPort.reset : AgentPort :=
  { state := .init, inForce := false, session := 0, request := .empty, response := none, mask := 0,
    responseAttention := false, noticeAttention := false, rejected := false, frameError := false,
    notices := [], expired := [], select := .high, transaction := none, sdo := [] }

/-- The machine right after reset, RESETn still asserted (R2, R21, R95, R106, R113, R132, R152, R161, R165).
(DESIGN CHOICE, unsafe: log entries 6, 11 and 12.) -/
def State.reset : State :=
  { records := Vector.replicate 64 BufferRecord.reset
    streams := Vector.replicate 16 none
    leases := []
    trackers := Vector.replicate 16 (Tracker.cleared CadenceParams.lowest)
    engine := FillEngine.reset
    ports := Vector.replicate 6 AgentPort.reset
    core := none
    pointer := 0
    timebase := 0
    resetAsserted := true
    fillBeats := none
    pending := [] }

/-! ## Reasons to stop -/

/-- Faults. The spec gives no condition that stops the F6: errors are results, latches and notices. So
there is no fault. (DESIGN CHOICE, unsafe: log entry 18.) -/
inductive Fault where
deriving DecidableEq, Repr

/-- Refusals. (DESIGN CHOICE, unsafe: log entry 18.) -/
inductive Refusal where
  /-- Raised by an arm of `exec` whose command has no meaning yet. Safe: the model stops. No arm raises it. -/
  | notModelled (mnemonic : String)
deriving DecidableEq, Repr

end Sys2Proof.Machine
end

