-- ==== Sys2Proof/Machine/Bytes.lean ====
section
/-! DEFINITION. Byte order, the CRC-16 and sets of ports on the wire (R189, R190, R191). -/

namespace Sys2Proof.Machine

/-- The number that bytes spell, most significant byte first (R189). -/
def natOfBytes (bs : List Byte) : Nat := bs.foldl (fun n b => n * 256 + b.toNat) 0

/-- The field of `width` bytes at `offset` (R191). -/
def fieldAt (bs : List Byte) (offset width : Nat) : Nat := natOfBytes ((bs.drop offset).take width)

/-- A number in `width` bytes, most significant byte first (R189). -/
def bytesOfNat : (width : Nat) → Nat → List Byte
  | 0, _ => []
  | w + 1, n => BitVec.ofNat 8 (n / 256 ^ w) :: bytesOfNat w n

/-- A wide optional field: zeros when it is absent (R189). -/
def optionBytes (width : Nat) (v : Option Nat) : List Byte := bytesOfNat width (v.getD 0)

/-- A byte-wide optional field: 0xFF when it is absent (R189). -/
def optionByte (v : Option Byte) : Byte := v.getD 0xFF

/-- A Boolean as a bit of a byte. -/
def flagBit (bit : Nat) (b : Bool) : Byte := if b then BitVec.ofNat 8 (2 ^ bit) else 0

/-- Shift one bit out of the CRC register (R190). -/
def crcShift (r : BitVec 16) : BitVec 16 :=
  if r.msb then (r <<< 1) ^^^ 0x1021 else r <<< 1

/-- Shift `n` bits out of the CRC register (R190). -/
def crcShifts : Nat → BitVec 16 → BitVec 16
  | 0, r => r
  | n + 1, r => crcShifts n (crcShift r)

/-- Enter one byte, most significant bit first (R190). -/
def crcByte (r : BitVec 16) (b : Byte) : BitVec 16 := crcShifts 8 (r ^^^ (b.setWidth 16 <<< 8))

/-- The CRC-16 of a list of bytes: initial value 0xFFFF, nothing reflected, no final XOR (R170, R190). -/
def crc16 (bs : List Byte) : BitVec 16 := bs.foldl crcByte 0xFFFF

/-- Bytes followed by their CRC-16 (R190). -/
def withCrc (bs : List Byte) : List Byte := bs ++ bytesOfNat 2 (crc16 bs).toNat

/-- What the agent clocks out of a copy: zeros beyond its end (R168). -/
def shiftedOut (copy : List Byte) (clocked : Nat) : List Byte :=
  (copy ++ List.replicate clocked 0).take clocked

/-- Whether a port is in a set (R7). -/
def PortSet.has (x : PortSet) (p : Port) : Bool := x[p]

/-- A set with a port added (R7). -/
def PortSet.add (x : PortSet) (p : Port) : PortSet := x.set p true

/-- A set with a port taken out (R7). -/
def PortSet.drop (x : PortSet) (p : Port) : PortSet := x.set p false

/-- The set of the ports of a list (R7). -/
def PortSet.ofList (ps : List Port) : PortSet := ps.foldl PortSet.add PortSet.empty

/-- Whether a set has no port. -/
def PortSet.isEmpty (x : PortSet) : Bool := decide (x = PortSet.empty)

/-- A set as a byte in which bit k stands for port Pk (R191). -/
def PortSet.toByte (x : PortSet) : Byte :=
  (List.finRange 6).foldl (fun b p => b ||| flagBit p.val (x.has p)) 0

end Sys2Proof.Machine
end

