-- ==== Sys2Proof/Machine/Ops.lean ====
section
/-! DEFINITION. Reads and updates of the tables, the comparison of times, handles, and the transitions of
one buffer record. The command meanings are written over these names. -/

namespace Sys2Proof.Machine

/-! ## Table indexes in order -/

/-- P0–P5 in order. -/
def allPorts : List Port := List.finRange 6

/-- S0–S15 in order. -/
def allStreams : List StreamId := List.finRange 16

/-- B0–B63 in order. -/
def allRecords : List RecordId := List.finRange 64

/-! ## Reads -/

/-- The record at an index. -/
def State.record (s : State) (i : RecordId) : BufferRecord := s.records[i]

/-- The context of a stream id; `none` when it is CLOSED. -/
def State.stream (s : State) (k : StreamId) : Option Stream := s.streams[k]

/-- The tracker of a stream id. -/
def State.tracker (s : State) (k : StreamId) : Tracker := s.trackers[k]

/-- An agent port. -/
def State.port (s : State) (p : Port) : AgentPort := s.ports[p]

/-! ## Updates -/

/-- Replace a record. -/
def State.setRecord (i : RecordId) (r : BufferRecord) (s : State) : State :=
  { s with records := s.records.set i r }

/-- Change a record. -/
def State.modRecord (i : RecordId) (f : BufferRecord → BufferRecord) (s : State) : State :=
  s.setRecord i (f (s.record i))

/-- Replace a stream context. -/
def State.setStream (k : StreamId) (c : Option Stream) (s : State) : State :=
  { s with streams := s.streams.set k c }

/-- Change a live stream; a CLOSED context stays CLOSED. -/
def State.modStream (k : StreamId) (f : Stream → Stream) (s : State) : State :=
  s.setStream k ((s.stream k).map f)

/-- Replace a tracker. -/
def State.setTracker (k : StreamId) (t : Tracker) (s : State) : State :=
  { s with trackers := s.trackers.set k t }

/-- Change a tracker. -/
def State.modTracker (k : StreamId) (f : Tracker → Tracker) (s : State) : State :=
  s.setTracker k (f (s.tracker k))

/-- Replace a port. -/
def State.setPort (p : Port) (q : AgentPort) (s : State) : State :=
  { s with ports := s.ports.set p q }

/-- Change a port. -/
def State.modPort (p : Port) (f : AgentPort → AgentPort) (s : State) : State :=
  s.setPort p (f (s.port p))

/-- Replace the lease table. -/
def State.setLeases (t : List LeaseEntry) (s : State) : State := { s with leases := t }

/-- Replace the fill engine. -/
def State.setEngine (e : FillEngine) (s : State) : State := { s with engine := e }

/-- Make the core busy with an execution, or free. -/
def State.setCore (c : Option Execution) (s : State) : State := { s with core := c }

/-- Move the arbiter's pointer. -/
def State.setPointer (p : Port) (s : State) : State := { s with pointer := p }

/-- Replace the queue of waiting commands. -/
def State.setPending (q : List Instr) (s : State) : State := { s with pending := q }

/-! ## Times (R97, R162) -/

/-- The timebase value `t` has reached the deadline `d`. -/
def reached (t d : Time) : Bool := decide ((t - d).toNat < 2 ^ 31)

/-- A deadline is earlier than or equal to another: neither is `d₂` earlier than `d₁` nor are they half
the range apart. -/
def notLater (d₁ d₂ : Time) : Bool := decide ((d₂ - d₁).toNat < 2 ^ 31)

/-- A time a number of microseconds later, modulo 2^32. -/
def after (t : Time) (us : Nat) : Time := t + BitVec.ofNat 32 us

/-- A lease in units of 100 µs as a deadline from now (R96, R98). (DESIGN CHOICE, unsafe: log entry 4.) -/
def leaseDeadline (now : Time) (units : BitVec 16) : Time := after now (units.toNat * Config.leaseUnit)

/-! ## Counters -/

/-- The sequence number after another: 1 follows 4,294,967,295 (R24). -/
def nextSequence (n : BitVec 32) : BitVec 32 := if n = BitVec.allOnes 32 then 1 else n + 1

/-- A session number after another: 1 follows 255 (R174). -/
def nextSession (n : BitVec 8) : BitVec 8 := if n = 255 then 1 else n + 1

/-- A sum held at 4,294,967,295 (R184, R185). -/
def addHeld (a b : BitVec 32) : BitVec 32 :=
  if 2 ^ 32 ≤ a.toNat + b.toNat then BitVec.allOnes 32 else a + b

/-! ## Handles (R11, R192) -/

/-- The 16-bit handle of a kind, an index and a generation. -/
def formHandle (kind : HandleKind) (i : RecordId) (generation : BitVec 8) : BitVec 16 :=
  BitVec.ofNat 16 ((match kind with | .write => 0 | .read => 32768) + i.val * 256 + generation.toNat)

/-- What a 16-bit value names: nothing when bit 14 is set. -/
def parseHandle (h : BitVec 16) : Option (HandleKind × RecordId × BitVec 8) :=
  if h.getLsbD 14 then none
  else some (if h.getLsbD 15 then .read else .write,
    ⟨h.toNat / 256 % 64, Nat.mod_lt _ (by decide)⟩, h.setWidth 8)

/-! ## One record -/

/-- The assignment of a record, absent when it is UNASSIGNED (R1). -/
def BufferRecord.assignment (r : BufferRecord) : Option Assignment :=
  match r.use with
  | .unassigned => none
  | .frame a _ => some a
  | .fallback a _ _ => some a

/-- Whether a record is UNASSIGNED. -/
def BufferRecord.isUnassigned (r : BufferRecord) : Bool := r.assignment.isNone

/-- Whether a record names a stream (R20). -/
def BufferRecord.names (r : BufferRecord) (k : StreamId) : Bool :=
  match r.assignment with
  | none => false
  | some a => decide (a.stream = k)

/-- The first byte of a record's region; 0 where the record has none.
(DESIGN CHOICE, unsafe: log entry 14.) -/
def BufferRecord.base (r : BufferRecord) : Address :=
  match r.assignment with
  | none => 0
  | some a => a.base

/-- The length of a record's region; 0 where the record has none. -/
def BufferRecord.length (r : BufferRecord) : BitVec 32 :=
  match r.assignment with
  | none => 0
  | some a => a.length

/-- The hold set, absent in most states (R1). -/
def BufferRecord.holdSet (r : BufferRecord) : Option PortSet :=
  match r.use with
  | .frame _ (.ready _ _ hold) => some hold
  | .frame _ (.draining _ hold) => some hold
  | .fallback _ hold _ => some hold
  | _ => none

/-- Whether a port is in a record's hold set (R7). -/
def BufferRecord.heldBy (r : BufferRecord) (p : Port) : Bool :=
  match r.holdSet with
  | none => false
  | some x => x.has p

/-- Whether no port holds a record. -/
def BufferRecord.unheld (r : BufferRecord) : Bool :=
  match r.holdSet with
  | none => true
  | some x => x.isEmpty

/-- The pending set, present in READY records of QUEUE streams alone (R1). -/
def BufferRecord.pendingSet (r : BufferRecord) : Option PortSet :=
  match r.use with
  | .frame _ (.ready _ pending _) => pending
  | _ => none

/-- Whether a port is in a record's pending set (R7). -/
def BufferRecord.owedTo (r : BufferRecord) (p : Port) : Bool :=
  match r.pendingSet with
  | none => false
  | some x => x.has p

/-- The writer, present in WRITING alone (R1). -/
def BufferRecord.writer (r : BufferRecord) : Option Port :=
  match r.use with
  | .frame _ (.writing p) => some p
  | _ => none

/-- The sequence and publish time, present in READY and DRAINING (R1). -/
def BufferRecord.stamp (r : BufferRecord) : Option FrameStamp :=
  match r.use with
  | .frame _ (.ready f _ _) => some f
  | .frame _ (.draining f _) => some f
  | _ => none

/-- The fallback condition, present in FALLBACK alone (R1). -/
def BufferRecord.condition (r : BufferRecord) : Option FallbackCondition :=
  match r.use with
  | .fallback _ _ c => some c
  | _ => none

/-- Whether a record is DRAINING. -/
def BufferRecord.isDraining (r : BufferRecord) : Bool :=
  match r.use with
  | .frame _ (.draining _ _) => true
  | _ => false

/-- Whether a record is SETTLING. -/
def BufferRecord.isSettling (r : BufferRecord) : Bool :=
  match r.use with
  | .frame _ .settling => true
  | _ => false

/-- The state of a record as R194 codes it. -/
def BufferRecord.stateCode (r : BufferRecord) : Byte :=
  match r.use with
  | .unassigned => 0
  | .frame _ .free => 1
  | .frame _ (.writing _) => 2
  | .frame _ (.ready _ _ _) => 3
  | .frame _ (.draining _ _) => 4
  | .frame _ .settling => 5
  | .fallback _ _ _ => 6

/-- Give a frame buffer another state; other records stay as they are. -/
def BufferRecord.toFrame (st : FrameState) (r : BufferRecord) : BufferRecord :=
  match r.use with
  | .frame a _ => { r with use := .frame a st }
  | _ => r

/-- Change the hold set of a record that has one (R7). -/
def BufferRecord.mapHold (f : PortSet → PortSet) (r : BufferRecord) : BufferRecord :=
  match r.use with
  | .frame a (.ready m pending hold) => { r with use := .frame a (.ready m pending (f hold)) }
  | .frame a (.draining m hold) => { r with use := .frame a (.draining m (f hold)) }
  | .fallback a hold c => { r with use := .fallback a (f hold) c }
  | _ => r

/-- Change the pending set of a record that has one (R7). -/
def BufferRecord.mapPending (f : PortSet → PortSet) (r : BufferRecord) : BufferRecord :=
  match r.use with
  | .frame a (.ready m pending hold) => { r with use := .frame a (.ready m (pending.map f) hold) }
  | _ => r

/-- A READY record leaves the ready list held: DRAINING, keeping sequence and publish time (R1). -/
def BufferRecord.toDraining (r : BufferRecord) : BufferRecord :=
  match r.use with
  | .frame a (.ready m _ hold) => { r with use := .frame a (.draining m hold) }
  | _ => r

/-- Set the fallback condition of a FALLBACK record (R4). -/
def BufferRecord.setCondition (c : FallbackCondition) (r : BufferRecord) : BufferRecord :=
  match r.use with
  | .fallback a hold _ => { r with use := .fallback a hold c }
  | _ => r

/-- Set the fill reference (R8). -/
def BufferRecord.setFill (x : FillRef) (r : BufferRecord) : BufferRecord := { r with fill := x }

/-- Raise the generation by 1; 0 follows 255 (R9). -/
def BufferRecord.raise (r : BufferRecord) : BufferRecord := { r with generation := r.generation + 1 }

/-- Return a record to UNASSIGNED; the generation stays (R6). -/
def BufferRecord.unassign (r : BufferRecord) : BufferRecord := { r with use := .unassigned }

/-- Whether a fill reference names a job (R8). -/
def FillRef.namesTag (x : FillRef) (tag : BitVec 8) : Bool :=
  match x with
  | .noJob => false
  | .named t => decide (t = tag)
  | .cancelling t => decide (t = tag)

/-! ## Records of a stream -/

/-- The fallback record of a stream (R20). -/
def State.fallbackOf (s : State) (k : StreamId) : Option RecordId :=
  allRecords.find? fun i => (s.record i).condition.isSome && (s.record i).names k

/-- The record of a stream that is WRITING, with its writer (R47). -/
def State.writingOf (s : State) (k : StreamId) : Option (RecordId × Port) :=
  allRecords.findSome? fun i =>
    if (s.record i).names k then (s.record i).writer.map fun p => (i, p) else none

/-! ## Consumers of a stream -/

/-- The consumer entry of a port (R22). -/
def Stream.consumer (st : Stream) (p : Port) : Option Consumer := st.consumers.find? fun c => c.port = p

/-- Whether a port has an entry. -/
def Stream.hasConsumer (st : Stream) (p : Port) : Bool := st.consumers.any fun c => c.port = p

/-- Change the entry of a port. -/
def Stream.modConsumer (p : Port) (f : Consumer → Consumer) (st : Stream) : Stream :=
  { st with consumers := st.consumers.map fun c => if c.port = p then f c else c }

/-- Count a frame a consumer was never given; the count stays at 65535 (R80). -/
def Consumer.skip (c : Consumer) : Consumer := { c with skipped := min 65535 (c.skipped + 1) }

/-- Streams a port produces (R26). -/
def State.producerCount (s : State) (p : Port) : Nat :=
  allStreams.countP fun k =>
    match s.stream k with
    | none => false
    | some st => decide (st.producer = p) && st.producerPresent

/-- Streams a port consumes (R26). -/
def State.consumerCount (s : State) (p : Port) : Nat :=
  allStreams.countP fun k =>
    match s.stream k with
    | none => false
    | some st => st.hasConsumer p

end Sys2Proof.Machine
end

