-- ==== Sys2Proof/Machine/Notices.lean ====
section
/-! DEFINITION. The notice queue of a port: masking, coalescing, overflow and popping (spec 10). -/

namespace Sys2Proof.Machine

/-- The code of a notice kind (R194); it is also the number of its selector in the mask (R191). -/
def NoticeKind.code : NoticeKind → Byte
  | .streamReady => 0x01
  | .openFailed => 0x02
  | .streamClosing => 0x03
  | .streamClosed => 0x04
  | .producerGone => 0x05
  | .consumerJoined => 0x06
  | .consumerLeft => 0x07
  | .frameAvailable => 0x08
  | .frameDropped => 0x09
  | .bufferAvailable => 0x0A
  | .writeLeaseExpired => 0x0B
  | .readLeaseExpired => 0x0C
  | .fillDone => 0x0D
  | .fillFailed => 0x0E
  | .cadenceLocked => 0x0F
  | .cadenceLost => 0x10
  | .frameLate => 0x11
  | .producerStalled => 0x12
  | .producerResumed => 0x13
  | .overflow => 0x14

/-- Whether a mask selects a kind (R183, R191). -/
def selects (mask : BitVec 32) (kind : NoticeKind) : Bool := mask.getLsbD kind.code.toNat

/-- Tally an occurrence into the head in transfer (R188). -/
def Transaction.tallyHead (amount : BitVec 32) : Transaction → Transaction
  | .notice copy true tally sum => .notice copy true (min 255 (tally + 1)) (addHeld sum amount)
  | t => t

/-- The queue was emptied: no head is in transfer any more (R188). -/
def Transaction.endTransfer : Transaction → Transaction
  | .notice copy _ _ _ => .notice copy false 0 0
  | t => t

/-- One occurrence gathered into a record of its kind and stream (R184). -/
def Notice.coalesce (detail : Option (BitVec 32)) (now : Time) (n : Notice) : Notice :=
  { n with
    count := min 255 (n.count + 1)
    time := now
    detail := if n.kind = .frameLate then some (addHeld (n.detail.getD 0) (detail.getD 0)) else detail }

/-- One lost notice counted in the OVERFLOW record (R185). -/
def Notice.countLoss (now : Time) (n : Notice) : Notice :=
  { n with count := min 255 (n.count + 1), time := now, detail := some (addHeld (n.detail.getD 0) 1) }

/-- Change the record at a place of the queue, tallying `amount` when it is the head in transfer (R188). -/
def AgentPort.gather (j : Nat) (f : Notice → Notice) (amount : BitVec 32) (q : AgentPort) : AgentPort :=
  { q with
    notices := q.notices.modify j f
    transaction := if j = 0 then q.transaction.map (Transaction.tallyHead amount) else q.transaction }

/-- Append a record at the tail (R185). -/
def AgentPort.append (n : Notice) (q : AgentPort) : AgentPort := { q with notices := q.notices ++ [n] }

/-- A notice meets a queue with 31 ordinary records: it is lost and counted (R185). -/
def AgentPort.lose (now : Time) (q : AgentPort) : AgentPort :=
  match q.notices.findIdx? fun n => n.kind = .overflow with
  | some j => q.gather j (Notice.countLoss now) 1
  | none => q.append { kind := .overflow, stream := none, count := 1, time := now, detail := some 1 }

/-- Enqueue a notice: judged by the port's state and mask (R183), coalesced (R184), appended or lost (R185). -/
def AgentPort.enqueue (kind : NoticeKind) (k : StreamId) (detail : Option (BitVec 32)) (now : Time)
    (q : AgentPort) : AgentPort :=
  if q.state = .resetting then q
  else if !selects q.mask kind then q
  else match q.notices.findIdx? fun n => n.kind = kind && n.stream = some k with
    | some j => q.gather j (Notice.coalesce detail now) (if kind = .frameLate then detail.getD 0 else 0)
    | none =>
      if q.notices.countP (fun n => n.kind ≠ .overflow) < Config.ordinaryNotices then
        q.append { kind := kind, stream := some k, count := 1, time := now, detail := detail }
      else q.lose now

/-- Discard every record (R181); a head in transfer is in transfer no more (R188). -/
def AgentPort.emptyNotices (q : AgentPort) : AgentPort :=
  { q with notices := [], transaction := q.transaction.map Transaction.endTransfer }

/-- What the head becomes when its whole copy was clocked out with a tally above 0 (R188). -/
def Notice.keepTally (tally : Nat) (sum : BitVec 32) (n : Notice) : Notice :=
  { n with
    count := tally
    detail := if n.kind = .frameLate || n.kind = .overflow then some sum else n.detail }

/-- The whole copy of the head was clocked out (R187, R188). -/
def AgentPort.popHead (tally : Nat) (sum : BitVec 32) (q : AgentPort) : AgentPort :=
  if tally = 0 then { q with notices := q.notices.drop 1 }
  else { q with notices := q.notices.modify 0 (Notice.keepTally tally sum) }

/-- Enqueue a notice with a given time of occurrence (R182, R183). -/
def State.notifyAt (t : Time) (p : Port) (kind : NoticeKind) (k : StreamId) (detail : Option (BitVec 32))
    (s : State) : State :=
  s.modPort p (AgentPort.enqueue kind k detail t)

/-- Enqueue a notice with the time of this execution (R182, R183). (DESIGN CHOICE, unsafe: log entry 4.) -/
def State.notify (p : Port) (kind : NoticeKind) (k : StreamId) (detail : Option (BitVec 32)) (s : State) :
    State :=
  s.notifyAt s.timebase p kind k detail

/-- Enqueue a notice to each port of a list, in order (R186). -/
def State.notifyEach (ps : List Port) (kind : NoticeKind) (k : StreamId) (detail : Option (BitVec 32))
    (s : State) : State :=
  ps.foldl (fun s p => s.notify p kind k detail) s

/-- A port as a detail: in the low byte (R193). -/
def portDetail (p : Port) : BitVec 32 := BitVec.ofNat 32 p.val

/-- A record index as a detail: in the low byte (R193). -/
def indexDetail (i : RecordId) : BitVec 32 := BitVec.ofNat 32 i.val

/-- A failing offset and cause as a detail: offset in bits 23–0, cause in bits 31–24 (R193). -/
def failureDetail (cause : FailCause) (offset : BitVec 24) : BitVec 32 :=
  BitVec.ofNat 32 ((match cause with | .error => 1 | .timeout => 2) * 2 ^ 24 + offset.toNat)

/-- The 14 bytes of a notice record, or of a NONE record (R193). -/
def noticeBytes : Option Notice → List Byte
  | none => withCrc ([0x00, 0xFF, 0x00, 0x00] ++ bytesOfNat 4 0 ++ bytesOfNat 4 0)
  | some n =>
    withCrc ([n.kind.code, optionByte (n.stream.map fun k => BitVec.ofNat 8 k.val),
        BitVec.ofNat 8 n.count, flagBit 0 n.detail.isSome] ++
      bytesOfNat 4 n.time.toNat ++ optionBytes 4 (n.detail.map BitVec.toNat))

end Sys2Proof.Machine
end

