-- ==== Sys2Proof/Machine/Cadence.lean ====
section
/-! DEFINITION. The cadence tracker: learning, watching, stalling and its report (spec 06). -/

namespace Sys2Proof.Machine

/-- The tolerance band T of a reference interval (R114). -/
def CadenceParams.band (c : CadenceParams) (r : Nat) : Nat := c.tolerance * r / 64

/-- Whether an interval is in range (R114). -/
def inRange (i : Nat) : Bool := decide (Config.minInterval ≤ i) && decide (i ≤ Config.maxInterval)

/-- The difference of two intervals, whichever is larger (R114). -/
def intervalGap (i r : Nat) : Nat := (i - r) + (r - i)

/-- The interval of a publication from the last one (R114). A tracker that measures has a last publish
time; without one the interval reads 0, which is out of range. (DESIGN CHOICE, unsafe: log entry 14.) -/
def Tracker.measure (t : Tracker) (at_ : Time) : Nat :=
  match t.lastPublish with
  | none => 0
  | some l => (at_ - l).toNat

/-- Whether an interval is in tolerance of R (R114). -/
def Tracker.inTolerance (t : Tracker) (i : Nat) : Bool :=
  match t.interval with
  | none => false
  | some r => inRange i && decide (intervalGap i r ≤ t.params.band r)

/-- A watch deadline R plus T beyond a publish time (R118, R119, R120). -/
def Tracker.watchFrom (c : CadenceParams) (at_ : Time) (r : Nat) : Time := after at_ (r + c.band r)

/-- A publication in ACQUIRING, before the test for the lock (R117). -/
def Tracker.learn (at_ : Time) (t : Tracker) : Tracker :=
  let i := t.measure at_
  let t' := { t with lastPublish := some at_ }
  if !inRange i then { t' with interval := none, lockCounter := 0 }
  else match t.interval with
    | none => { t' with interval := some i, lockCounter := 0 }
    | some r =>
      if t.inTolerance i then { t' with interval := some ((3 * r + i) / 4), lockCounter := t.lockCounter + 1 }
      else { t' with interval := some i, lockCounter := 0 }

/-- The tracker locks when the lock counter has reached the lock count (R118). -/
def Tracker.tryLock (at_ : Time) (t : Tracker) : Tracker :=
  if t.lockCounter = t.params.lockCount then
    { t with
      state := .locked, unlockCounter := 0, missCounter := 0
      watch := some (Tracker.watchFrom t.params at_ (t.interval.getD 0)), change := some .locked }
  else t

/-- A publication in LOCKED (R119, R120). -/
def Tracker.follow (at_ : Time) (t : Tracker) : Tracker :=
  let i := t.measure at_
  let r := t.interval.getD 0
  if t.inTolerance i then
    { t with
      missCounter := 0, unlockCounter := 0, interval := some ((7 * r + i) / 8), lastPublish := some at_
      watch := some (Tracker.watchFrom t.params at_ ((7 * r + i) / 8)) }
  else if t.unlockCounter + 1 < t.params.unlockCount then
    { t with
      missCounter := 0, unlockCounter := t.unlockCounter + 1, lastPublish := some at_
      watch := some (Tracker.watchFrom t.params at_ r) }
  else
    { t with
      state := .acquiring, interval := if inRange i then some i else none, lastPublish := some at_
      lockCounter := 0, unlockCounter := 0, missCounter := 0, watch := none, change := some .lost }

/-- A publication at a publish time (R115, R116, R117, R119, R120, R123). -/
def Tracker.publication (at_ : Time) (t : Tracker) : Tracker :=
  if !t.params.enable then t
  else match t.state with
    | .idle => { t with state := .acquiring, interval := none, lockCounter := 0, lastPublish := some at_ }
    | .acquiring => (t.learn at_).tryLock at_
    | .locked => t.follow at_
    | .stalled =>
      { t with
        state := .acquiring, lastPublish := some at_, lockCounter := 0, unlockCounter := 0
        missCounter := 0, watch := none, change := some .resumed }

/-- Whether the timebase has reached the watch deadline of a LOCKED tracker (R121).
(DESIGN CHOICE, unsafe: log entry 1.) -/
def Tracker.due (now : Time) (t : Tracker) : Bool :=
  match t.state, t.watch with
  | .locked, some d => reached now d
  | _, _ => false

/-- A watch deadline passes: a miss is counted, and may stall the tracker (R121, R122). -/
def Tracker.miss (t : Tracker) : Tracker :=
  if t.missCounter + 1 < t.params.stallCount then
    { t with
      missCounter := t.missCounter + 1, late := min 15 (t.late + 1)
      watch := t.watch.map fun d => after d (t.interval.getD 0) }
  else
    { t with state := .stalled, missCounter := t.missCounter + 1, watch := none, change := some .stalled }

/-- The stream was orphaned (R125). -/
def Tracker.orphan (t : Tracker) : Tracker :=
  { t with state := .stalled, watch := none, late := 0, change := none }

/-- The stream entered CLOSING: cleared, parameters kept (R113, R125). -/
def Tracker.clear (t : Tracker) : Tracker := Tracker.cleared t.params

/-- Whether a report is pending (R113). -/
def Tracker.hasReport (t : Tracker) : Bool := decide (t.late ≠ 0) || t.change.isSome

/-- The report is taken: late count 0 and state change none (R127). -/
def Tracker.takeReport (t : Tracker) : Tracker := { t with late := 0, change := none }

/-- The notice of a state change, with its detail (R127). -/
def changeNotice (interval : Option Nat) : StateChange → NoticeKind × Option (BitVec 32)
  | .locked => (.cadenceLocked, interval.map (BitVec.ofNat 32))
  | .lost => (.cadenceLost, none)
  | .stalled => (.producerStalled, none)
  | .resumed => (.producerResumed, none)

/-- The notices of a taken report to one port: FRAME_LATE, then the state change (R127). -/
def State.notifyCadence (t : Time) (k : StreamId) (late : Nat) (change : Option StateChange)
    (interval : Option Nat) (p : Port) (s : State) : State :=
  let s := if late = 0 then s else s.notifyAt t p .frameLate k (some (BitVec.ofNat 32 late))
  match change with
  | none => s
  | some c => s.notifyAt t p (changeNotice interval c).1 k (changeNotice interval c).2

end Sys2Proof.Machine
end

