-- ==== Sys2Proof/Machine/FillEngine.lean ====
section
/-! DEFINITION. The fill engine: jobs, bursts, responses, timeouts and cancellation (spec 07). -/

namespace Sys2Proof.Machine

/-- What the core asks to be written (R131, R133). -/
structure FillOrder where
  index : RecordId
  kind : FillKind
  requester : Port
  pattern : BitVec 32
  start : Address
  stop : Address
deriving DecidableEq, Repr

/-- The first tag from a counter value on that no job in the queue has (R131). The queue holds at most 8
jobs, so the search ends; `tries` bounds it by the number of tags. -/
def freshTag (jobs : List FillJob) : (tries : Nat) → BitVec 8 → BitVec 8
  | 0, c => c
  | n + 1, c => if jobs.any fun j => j.tag = c then freshTag jobs n (c + 1) else c

/-- The tag the next submitted job takes (R131). -/
def FillEngine.nextTag (e : FillEngine) : BitVec 8 := freshTag e.jobs 255 e.tagCounter

/-- Issue a burst at an address with the next burst tag (R134, R135). -/
def FillEngine.issue (now : Time) (a : Address) (e : FillEngine) : FillEngine :=
  { e with
    state := .running { address := a, tag := e.burstCounter, issuedAt := now, accepted := false }
    burstCounter := e.burstCounter + 1 }

/-- Start the head job, or stand by when there is none (R132, R133). (DEDUCED, unsafe: log entry 7.) -/
def FillEngine.startHead (now : Time) (e : FillEngine) : FillEngine :=
  match e.jobs with
  | [] => { e with state := .standby }
  | j :: js => FillEngine.issue now j.start { e with jobs := { j with next := j.start } :: js }

/-- The job an order becomes under a tag (R131). -/
def FillOrder.job (o : FillOrder) (tag : BitVec 8) : FillJob :=
  { tag := tag, index := o.index, kind := o.kind, requester := o.requester, pattern := o.pattern,
    start := o.start, stop := o.stop, next := o.start, cancel := false }

/-- Submit a job: it takes the next tag and joins the tail; an engine in STANDBY starts it (R131, R133).
(DEDUCED, unsafe: log entry 7.) -/
def FillEngine.submit (now : Time) (o : FillOrder) (e : FillEngine) : FillEngine :=
  let e' := { e with jobs := e.jobs ++ [o.job e.nextTag], tagCounter := e.nextTag + 1 }
  match e.state with
  | .standby => e'.startHead now
  | _ => e'

/-- How a burst ended (R136, R137). -/
inductive BurstEnd where
  | ok
  | failed (cause : FailCause)
deriving DecidableEq, Repr

/-- The failing offset of a burst, in units of 256 bytes from the base of the job's record (R136, R137). -/
def failingOffset (address base : Address) : BitVec 24 := ((address - base) >>> 8).setWidth 24

/-- The engine ends the head job and forms its report (R138). -/
def FillEngine.report (j : FillJob) (outcome : FillOutcome) (e : FillEngine) : FillEngine :=
  { e with
    state := .reporting
      { tag := j.tag, index := j.index, kind := j.kind, requester := j.requester, outcome := outcome } }

/-- The burst in flight ends; the engine decides whether the job ends (R136, R137, R138). `base` is the
base of the head job's record. A response may end a burst that FAREADY has not accepted: then the burst is
withdrawn, as R137 says of the timeout, and the next burst or the report takes its place at once; the spec does not
say what happens to it at the fill port. (DEDUCED, safe: log entry 10. DESIGN CHOICE, unsafe: log entry 19.) -/
def FillEngine.endBurst (now : Time) (base : Address) (how : BurstEnd) (e : FillEngine) : FillEngine :=
  match e.state, e.jobs with
  | .running b, j :: js =>
    let j' := match how with
      | .ok => { j with next := j.next + Config.burstBytes }
      | .failed _ => j
    let e' := { e with jobs := j' :: js }
    if j'.cancel then e'.report j' .cancelled
    else match how with
      | .failed cause => e'.report j' (.failed cause (failingOffset b.address base))
      | .ok => if j'.next = j'.stop then e'.report j' .done else e'.issue now j'.next
  | _, _ => e

/-- The record the head job writes (R131). -/
def FillEngine.headIndex (e : FillEngine) : Option RecordId := e.jobs.head?.map FillJob.index

/-- The engine's answers to a cancel request (R139). -/
inductive CancelAnswer where
  | removed
  | marked
  | ended
deriving DecidableEq, Repr

/-- Whether the head of the queue is the active or the ended job (R131). -/
def FillEngine.headStarted (e : FillEngine) : Bool :=
  match e.state with
  | .running _ => true
  | .reporting _ => true
  | _ => false

/-- Whether a tag is that of the active or the ended job (R131). -/
def FillEngine.isHead (tag : BitVec 8) (e : FillEngine) : Bool :=
  e.headStarted && (match e.jobs with | [] => false | j :: _ => decide (j.tag = tag))

/-- The core asks to cancel a job (R139). (DESIGN CHOICE, unsafe: log entry 14.) -/
def FillEngine.cancel (tag : BitVec 8) (e : FillEngine) : CancelAnswer × FillEngine :=
  if e.isHead tag then
    match e.state with
    | .running _ => (.marked, { e with jobs := e.jobs.modify 0 fun j => { j with cancel := true } })
    | _ => (.ended, e)
  else (.removed, { e with jobs := e.jobs.filter fun j => j.tag ≠ tag })

/-- The core takes the report: the ended job leaves and the next one starts (R133, R140).
(DEDUCED, unsafe: log entry 17.) -/
def FillEngine.takeReport (now : Time) (e : FillEngine) : FillEngine :=
  FillEngine.startHead now { e with jobs := e.jobs.drop 1 }

/-- The engine's state as R194 codes it. -/
def FillEngine.stateCode (e : FillEngine) : Byte :=
  match e.state with
  | .quiet => 0
  | .standby => 1
  | .running _ => 2
  | .reporting _ => 3

/-- The fill field as it reads (R8, R158), coded by R194, with the job's tag. -/
def fillView (e : FillEngine) : FillRef → Byte × Option (BitVec 8)
  | .noJob => (0, none)
  | .named tag => (if e.isHead tag then 2 else 1, some tag)
  | .cancelling tag => (3, some tag)

/-- A burst is due to time out: 64 µs after its issue (R137). (DESIGN CHOICE, unsafe: log entry 1.) -/
def FillEngine.timedOut (now : Time) (e : FillEngine) : Bool :=
  match e.state with
  | .running b => reached now (b.issuedAt + Config.burstTimeout)
  | _ => false

/-- The 32 beats of a burst: the pattern 64 times, most significant byte at the lowest address (R134, R195).
(DESIGN CHOICE, unsafe: log entry 11.) -/
def patternBeats (pattern : BitVec 32) : List (List Byte) :=
  List.replicate 32 (bytesOfNat 4 pattern.toNat ++ bytesOfNat 4 pattern.toNat)

/-- Submit a fill job for a record: its fill names the job from now on (R8, R131). -/
def State.submitFill (o : FillOrder) (s : State) : State :=
  let tag := s.engine.nextTag
  (s.setEngine (s.engine.submit s.timebase o)).modRecord o.index (BufferRecord.setFill (.named tag))

/-- A FALLBACK_FILL job over the whole region of a record (R133, R144). (DEDUCED, safe: log entry 10.) -/
def fallbackOrder (i : RecordId) (r : BufferRecord) (requester : Port) (pattern : BitVec 32) : FillOrder :=
  { index := i, kind := .fallbackFill, requester := requester, pattern := pattern
    start := r.base, stop := r.base + r.length.setWidth 40 }

/-- Whether the job queue is full (R28, R142, R144). -/
def FillEngine.isFull (e : FillEngine) : Bool := decide (Config.fillJobs ≤ e.jobs.length)

end Sys2Proof.Machine
end

