-- ==== Sys2Proof/Machine/Leases.lean ====
section
/-! DEFINITION. The lease table and the expired-handle lists (spec 05). -/

namespace Sys2Proof.Machine

/-- Whether an entry is the entry of a handle and a port (R95). -/
def LeaseEntry.isOf (h : BitVec 16) (p : Port) (e : LeaseEntry) : Bool :=
  decide (e.handle = h) && decide (e.port = p)

/-- Place an entry after every entry whose deadline is earlier than or equal to its own (R98). -/
def insertLease (e : LeaseEntry) : List LeaseEntry → List LeaseEntry
  | [] => [e]
  | x :: xs => if notLater x.deadline e.deadline then x :: insertLease e xs else e :: x :: xs

/-- The timer looks at the head: when no entry is marked and the head is due, it marks it (R102).
(DEDUCED, unsafe: log entry 17.) -/
def lookLeases (now : Time) (t : List LeaseEntry) : List LeaseEntry :=
  if t.any LeaseEntry.marked then t
  else match t with
    | [] => []
    | e :: es => if reached now e.deadline then { e with marked := true } :: es else e :: es

/-- Remove the entry of a handle and a port; when it was marked its presentation ends and the timer looks
again (R99, R102). -/
def removeLease (now : Time) (h : BitVec 16) (p : Port) (t : List LeaseEntry) : List LeaseEntry :=
  if t.any fun e => e.isOf h p && e.marked then lookLeases now (t.filter fun e => !e.isOf h p)
  else t.filter fun e => !e.isOf h p

/-- Move the deadline of the entry of a handle and a port and clear its mark (R101).
(DESIGN CHOICE, unsafe: log entry 14.) -/
def renewLease (now : Time) (h : BitVec 16) (p : Port) (deadline : Time) (t : List LeaseEntry) :
    List LeaseEntry :=
  match t.find? (LeaseEntry.isOf h p) with
  | none => t
  | some e =>
    let t' := insertLease { e with deadline := deadline, marked := false } (t.filter fun e => !e.isOf h p)
    if e.marked then lookLeases now t' else t'

/-- Insert an entry for a handle just granted when the lease is not 0 (R96, R98). -/
def State.grantLease (kind : HandleKind) (i : RecordId) (p : Port) (units : BitVec 16) (s : State) : State :=
  if units = 0 then s
  else s.setLeases (insertLease
    { handle := formHandle kind i (s.record i).generation, port := p, index := i, kind := kind,
      deadline := leaseDeadline s.timebase units, marked := false } s.leases)

/-- End the lease of a handle and a port, if it has one (R99). -/
def State.endLease (h : BitVec 16) (p : Port) (s : State) : State :=
  s.setLeases (removeLease s.timebase h p s.leases)

/-- Whether an acquire under a lease finds no room in the table (R98). -/
def State.leaseRefused (s : State) (units : BitVec 16) : Bool :=
  decide (units ≠ 0) && decide (Config.leaseEntries ≤ s.leases.length)

/-- Append an expired handle, dropping the oldest of a full list (R106). -/
def AgentPort.recordExpired (h : BitVec 16) (q : AgentPort) : AgentPort :=
  { q with
    expired := (if Config.expiredHandles ≤ q.expired.length then q.expired.drop 1 else q.expired) ++ [h] }

/-- Take a handle out of the expired-handle list (R14, R107). -/
def AgentPort.forgetExpired (h : BitVec 16) (q : AgentPort) : AgentPort :=
  { q with expired := q.expired.filter fun x => x ≠ h }

/-- Record an expiry: the handle into the port's list, then the notice to the port (R105). -/
def State.recordExpiry (e : LeaseEntry) (k : StreamId) (s : State) : State :=
  let s := s.modPort e.port (AgentPort.recordExpired e.handle)
  s.notify e.port (match e.kind with | .write => .writeLeaseExpired | .read => .readLeaseExpired) k
    (some (e.handle.setWidth 32))

end Sys2Proof.Machine
end

