-- ==== Sys2Proof/Machine/Arbiter.lean ====
section
/-! DEFINITION. The intake arbiter: what is presented, what it grants, and the grant (R149–R153).
A grant happens in the event that presents an item to a free core or frees the core (R151). -/

namespace Sys2Proof.Machine

/-- The ports in the order the round-robin examines them (R152). -/
def portsFrom (pointer : Port) : List Port := allPorts.map fun k => pointer + k

/-- The item a port presents: its HELD request or forced detach (R151, R167). -/
def State.portItem (s : State) (p : Port) : Option Item :=
  match (s.port p).request with
  | .held (.request _) => some (.request p)
  | .held .forcedDetach => some (.forcedDetach p)
  | _ => none

/-- The fill engine's completion report, when it presents one (R138, R151). -/
def State.fillItem (s : State) : Option Item :=
  match s.engine.state with
  | .reporting r => some (.fillReport r)
  | _ => none

/-- The lease timer's presented expiry: its marked entry (R102, R151). -/
def State.leaseItem (s : State) : Option Item := (s.leases.find? LeaseEntry.marked).map Item.leaseExpiry

/-- The cadence report of the lowest-numbered stream that presents one, as it reads now (R127, R151).
(DEDUCED, unsafe: log entry 17.) -/
def State.cadenceItem (s : State) : Option Item :=
  (allStreams.find? fun k => (s.tracker k).hasReport).map fun k =>
    .cadenceReport k (s.tracker k).late (s.tracker k).change (s.tracker k).interval

/-- The port item of the round-robin (R152). -/
def State.roundRobinItem (s : State) : Option Item := (portsFrom s.pointer).findSome? s.portItem

/-- The item the arbiter chooses of all that are presented (R151). -/
def State.chosenItem (s : State) : Option Item :=
  s.fillItem <|> s.leaseItem <|> s.cadenceItem <|> s.roundRobinItem

/-- A HELD request slot becomes TAKEN (R150, R167). -/
def RequestSlot.take : RequestSlot → RequestSlot
  | .held i => .taken i
  | x => x

/-- The grant of a port item: the slot becomes TAKEN and the pointer moves to the port after (R150, R152). -/
def State.grantPort (p : Port) (s : State) : State :=
  (s.modPort p fun q => { q with request := q.request.take }).setPointer (p + 1)

/-- What the presenting block does at the grant of its item (R150). (DEDUCED, unsafe: log entry 17.) -/
def State.endPresentation (i : Item) (s : State) : State :=
  match i with
  | .fillReport _ => s.setEngine (s.engine.takeReport s.timebase)
  | .leaseExpiry e =>
    s.setLeases (lookLeases s.timebase (s.leases.filter fun x => !x.isOf e.handle e.port))
  | .cadenceReport k _ _ _ => s.modTracker k Tracker.takeReport
  | .request p => s.grantPort p
  | .forcedDetach p => s.grantPort p

/-- Grant an item: its execution begins (R150). -/
def State.grant (i : Item) (s : State) : State :=
  (s.endPresentation i).setCore (some { item := i, takenAt := s.timebase })

/-- Whether every port has left INIT (R163). -/
def State.initOver (s : State) : Bool := allPorts.all fun p => (s.port p).state ≠ .init

/-- The arbiter chooses when the core is free and something is presented (R151, R163).
(DEDUCED, unsafe: log entry 3.) -/
def State.arbitrate (s : State) : State :=
  match s.core with
  | some _ => s
  | none =>
    if s.initOver then
      match s.chosenItem with
      | none => s
      | some i => s.grant i
    else s

/-- The core becomes free and the arbiter chooses again (R150, R151). (DEDUCED, unsafe: log entry 3.) -/
def State.finish (s : State) : State := (s.setCore none).arbitrate

end Sys2Proof.Machine
end

