-- ==== Sys2Proof/Machine/Exchange.lean ====
section
/-! DEFINITION. The procedures the items share: a buffer becoming FREE, the end of a write handle, the end
of a hold, entry into CLOSING and its completion, the departure of a consumer, and the detach actions
(spec 02, 03, 04, 09). -/

namespace Sys2Proof.Machine

/-! ## A buffer becomes FREE (R54) -/

/-- A frame buffer becomes FREE at the tail of the free list; a waiting producer is sent BUFFER_AVAILABLE
and its flag is cleared (R23, R54). -/
def State.becomeFree (i : RecordId) (k : StreamId) (s : State) : State :=
  let s' := s.modRecord i (BufferRecord.toFrame .free)
  match s'.stream k with
  | none => s'
  | some st =>
    let s'' := s'.setStream k (some { st with free := st.free ++ [i], producerWaiting := false })
    if st.producerWaiting then s''.notify st.producer .bufferAvailable k (some (indexDetail i)) else s''

/-- A record leaves the ready list: FREE when no port holds it, DRAINING when one does (R33, R59, R88). -/
def State.retire (i : RecordId) (k : StreamId) (s : State) : State :=
  if (s.record i).unheld then s.becomeFree i k else s.modRecord i BufferRecord.toDraining

/-! ## The end of a write handle (R64) -/

/-- The end of a write handle from item 2 on: by the record's fill and the engine's answer (R64, R103). -/
def State.endWriting (i : RecordId) (k : StreamId) (s : State) : State :=
  match (s.record i).fill with
  | .noJob => s.becomeFree i k
  | .named tag | .cancelling tag =>
    match s.engine.cancel tag with
    | (.marked, e) =>
      (s.setEngine e).modRecord i fun r => (r.toFrame .settling).setFill (.cancelling tag)
    | (_, e) => ((s.setEngine e).modRecord i (BufferRecord.setFill .noJob)).becomeFree i k

/-- The end of a write handle held by a port (R64). -/
def State.endWriteHandle (i : RecordId) (p : Port) (k : StreamId) (s : State) : State :=
  (s.endLease (formHandle .write i (s.record i).generation) p).endWriting i k

/-- The end of the write handle a stream's producer holds, if it holds one (R34, R38). -/
def State.endStreamWrite (k : StreamId) (s : State) : State :=
  match s.writingOf k with
  | none => s
  | some (i, p) => s.endWriteHandle i p k

/-! ## The end of a hold (R83) -/

/-- The end of a hold without its lease: items 1, 3 and 4 of R83 (R104). -/
def State.endHold (i : RecordId) (p : Port) (k : StreamId) (s : State) : State :=
  let s := s.modRecord i (BufferRecord.mapHold fun x => x.drop p)
  let s := s.modStream k (Stream.modConsumer p fun c => { c with readHolds := c.readHolds - 1 })
  if (s.record i).isDraining && (s.record i).unheld then s.becomeFree i k else s

/-- The end of a hold as RELEASE ends it: items 1 to 4 of R83. -/
def State.releaseHold (i : RecordId) (p : Port) (k : StreamId) (s : State) : State :=
  (s.endLease (formHandle .read i (s.record i).generation) p).endHold i p k

/-! ## Closing (R33–R36) -/

/-- Whether a record lets its stream's close complete (R35). -/
def BufferRecord.settled (r : BufferRecord) : Bool :=
  decide (r.fill = .noJob) &&
    match r.use with
    | .unassigned => true
    | .frame _ .free => true
    | .frame _ _ => false
    | .fallback _ hold _ => hold.isEmpty

/-- Whether the close of a stream is complete (R35). -/
def State.closeComplete (s : State) (k : StreamId) : Bool :=
  allRecords.all fun i => !(s.record i).names k || (s.record i).settled

/-- The close completes: records UNASSIGNED, context CLOSED, STREAM_CLOSED when it is due (R6, R36). -/
def State.completeClose (k : StreamId) (st : Stream) (origin : CloseOrigin) (s : State) : State :=
  let s := { s with records := s.records.map fun (r : BufferRecord) => if r.names k then r.unassign else r }
  let s := s.setStream k none
  if origin = .request && st.producerPresent then s.notify st.producer .streamClosed k none else s

/-- The completion check of a CLOSING stream (R35). -/
def State.completionCheck (k : StreamId) (s : State) : State :=
  match s.stream k with
  | none => s
  | some st =>
    match st.phase with
    | .closing origin => if s.closeComplete k then s.completeClose k st origin else s
    | _ => s

/-- Cancel the fill of a stream's fallback, if it names a job; its condition stays (R34). -/
def State.cancelFallbackFill (k : StreamId) (s : State) : State :=
  match s.fallbackOf k with
  | none => s
  | some i =>
    match (s.record i).fill with
    | .noJob => s
    | .named tag | .cancelling tag =>
      match s.engine.cancel tag with
      | (.marked, e) => (s.setEngine e).modRecord i (BufferRecord.setFill (.cancelling tag))
      | (_, e) => (s.setEngine e).modRecord i (BufferRecord.setFill .noJob)

/-- Entry into CLOSING, with the completion check at its end (R33, R34). -/
def State.enterClosing (k : StreamId) (origin : CloseOrigin) (s : State) : State :=
  match s.stream k with
  | none => s
  | some st =>
    let s := s.setStream k (some { st with producerWaiting := false, consumers := [], ready := [] })
    let s := s.notifyEach (st.consumers.map Consumer.port) .streamClosing k none
    let s := st.ready.foldl (fun s i => s.retire i k) s
    let s := s.endStreamWrite k
    let s := s.cancelFallbackFill k
    let s := s.modTracker k Tracker.clear
    let s := s.modStream k fun st => { st with phase := .closing origin }
    s.completionCheck k

/-! ## The departure of a consumer (R86–R89) -/

/-- The records of a stream that a port holds, in increasing index. -/
def State.heldIn (s : State) (p : Port) (k : StreamId) : List RecordId :=
  allRecords.filter fun i => (s.record i).names k && (s.record i).heldBy p

/-- Release every hold of a port in a stream, in increasing record index (R87, R90). -/
def State.releaseHolds (p : Port) (k : StreamId) (s : State) : State :=
  (s.heldIn p k).foldl (fun s i => s.releaseHold i p k) s

/-- Take a port out of the pending set of one record of the ready list; a record owed to no consumer any
more leaves the list (R88). -/
def State.dropOwed (p : Port) (k : StreamId) (i : RecordId) (s : State) : State :=
  match (s.record i).pendingSet with
  | none => s
  | some x =>
    let s := s.modRecord i (BufferRecord.mapPending fun x => x.drop p)
    if (x.drop p).isEmpty then
      (s.modStream k fun st => { st with ready := st.ready.filter fun j => j ≠ i }).retire i k
    else s

/-- The second part of a departure: the pending sets, in ready-list order (R88). -/
def State.dropAllOwed (p : Port) (k : StreamId) (s : State) : State :=
  match s.stream k with
  | none => s
  | some st => if st.policy = .queue then st.ready.foldl (fun s i => s.dropOwed p k i) s else s

/-- The third part of a departure: the entry, and CONSUMER_LEFT to a present producer (R89). -/
def State.dropEntry (p : Port) (k : StreamId) (s : State) : State :=
  match s.stream k with
  | none => s
  | some st =>
    let s := s.setStream k (some { st with consumers := st.consumers.filter fun c => c.port ≠ p })
    if st.producerPresent then s.notify st.producer .consumerLeft k (some (portDetail p)) else s

/-- The orphan check: an ORPHANED stream left with no consumers enters CLOSING (R39, R89). -/
def State.orphanCheck (k : StreamId) (s : State) : State :=
  match s.stream k with
  | none => s
  | some st => if st.phase = .orphaned && st.consumers.isEmpty then s.enterClosing k .departure else s

/-- The departure of a consumer from a stream (R86). -/
def State.depart (p : Port) (k : StreamId) (s : State) : State :=
  (((s.releaseHolds p k).dropAllOwed p k).dropEntry p k).orphanCheck k

/-! ## The detach actions (R176) -/

/-- Step 1 for one stream: the departure where the port has an entry (R176). -/
def State.departIfMember (p : Port) (k : StreamId) (s : State) : State :=
  match s.stream k with
  | none => s
  | some st => if st.hasConsumer p then s.depart p k else s

/-- Step 2 for one stream: the holds kept in a CLOSING stream, and the completion check (R90, R176).
(DEDUCED, unsafe: log entry 16.) -/
def State.releaseInClosing (p : Port) (k : StreamId) (s : State) : State :=
  match s.stream k with
  | none => s
  | some st =>
    match st.phase with
    | .closing _ => if (s.heldIn p k).isEmpty then s else (s.releaseHolds p k).completionCheck k
    | _ => s

/-- An OPEN stream with consumers loses its producer (R39). -/
def State.orphan (k : StreamId) (s : State) : State :=
  match s.stream k with
  | none => s
  | some st =>
    let s := s.setStream k (some { st with phase := .orphaned, producerWaiting := false })
    let s := s.modTracker k Tracker.orphan
    s.notifyEach (st.consumers.map Consumer.port) .producerGone k none

/-- Step 3 for one stream: the departure of its producer (R38, R176). -/
def State.dropProducer (p : Port) (k : StreamId) (s : State) : State :=
  match s.stream k with
  | none => s
  | some st =>
    if st.producer = p && st.producerPresent then
      let s := s.endStreamWrite k
      let s := s.modStream k fun st => { st with producerPresent := false }
      match st.phase with
      | .preparing => s.enterClosing k .departure
      | .opened => if st.consumers.isEmpty then s.enterClosing k .departure else s.orphan k
      | _ => s
    else s

/-- Step 4: the port's expired-handle list is emptied (R107, R176). -/
def State.clearExpired (p : Port) (s : State) : State := s.modPort p fun q => { q with expired := [] }

/-- The detach actions, steps 1 to 4 (R176). -/
def State.detachActions (p : Port) (s : State) : State :=
  let s := allStreams.foldl (fun s k => s.departIfMember p k) s
  let s := allStreams.foldl (fun s k => s.releaseInClosing p k) s
  let s := allStreams.foldl (fun s k => s.dropProducer p k) s
  s.clearExpired p

/-- What a port becomes after the detach actions: no session, no notices, mask and attentions off (R176,
R179). The port state is the caller's. -/
def AgentPort.endSession (q : AgentPort) : AgentPort :=
  { q.emptyNotices with mask := 0, responseAttention := false, noticeAttention := false, inForce := false }

end Sys2Proof.Machine
end

