-- ==== Sys2Proof/Machine/Operands.lean ====
section
/-! DEFINITION. Request frames: their codes, lengths and fields, the common check order (R154–R156), and
how an execution of a request ends (R150, R157). -/

namespace Sys2Proof.Machine

/-! ## Requests -/

/-- The 18 requests (R191). -/
inductive Request where
  | attach
  | detach
  | setNoticeMask
  | openStream
  | closeStream
  | join
  | leave
  | acquireWrite
  | publish
  | discard
  | fill
  | refillFallback
  | acquireRead
  | release
  | renew
  | queryStream
  | queryBuffer
  | queryDevice
deriving DecidableEq, Repr

/-- The request a code names (R191). -/
def requestOfCode (code : Byte) : Option Request :=
  match code.toNat with
  | 0x01 => some .attach
  | 0x02 => some .detach
  | 0x03 => some .setNoticeMask
  | 0x04 => some .openStream
  | 0x05 => some .closeStream
  | 0x06 => some .join
  | 0x07 => some .leave
  | 0x08 => some .acquireWrite
  | 0x09 => some .publish
  | 0x0A => some .discard
  | 0x0B => some .fill
  | 0x0C => some .refillFallback
  | 0x0D => some .acquireRead
  | 0x0E => some .release
  | 0x0F => some .renew
  | 0x10 => some .queryStream
  | 0x11 => some .queryBuffer
  | 0x12 => some .queryDevice
  | _ => none

/-- Descriptors an OPEN_STREAM payload of a length carries, if the length is allowed: the fixed part of 18
bytes and 2 to 9 descriptors of 10 (R27, R191). -/
def descriptorCount (length : Nat) : Option Nat :=
  if 38 ≤ length && length ≤ 108 && (length - 18) % 10 = 0 then some ((length - 18) / 10) else none

/-- Whether a payload length is allowed for a request (R155, R191). -/
def Request.allows (r : Request) (length : Nat) : Bool :=
  match r with
  | .attach | .setNoticeMask => decide (length = 5)
  | .detach | .queryDevice => decide (length = 0)
  | .openStream => (descriptorCount length).isSome
  | .closeStream | .leave | .acquireWrite | .acquireRead | .queryStream | .queryBuffer => decide (length = 1)
  | .join => decide (length = 4)
  | .publish | .discard | .release | .renew => decide (length = 2)
  | .fill => decide (length = 12)
  | .refillFallback => decide (length = 5)

/-- The request a frame carries; `none` is answered BAD_REQUEST (R155, step 1). -/
def RequestFrame.request (f : RequestFrame) : Option Request :=
  match requestOfCode f.code with
  | none => none
  | some r => if r.allows f.payload.length then some r else none

/-- The command that executes a frame standing in a port's slot. -/
def RequestFrame.command (f : RequestFrame) (p : Port) : Instr :=
  match f.request with
  | none => .unknownRequest p
  | some .attach => .attach p
  | some .detach => .detach p
  | some .setNoticeMask => .setNoticeMask p
  | some .openStream => .openStream p
  | some .closeStream => .closeStream p
  | some .join => .join p
  | some .leave => .leave p
  | some .acquireWrite => .acquireWrite p
  | some .publish => .publish p
  | some .discard => .discard p
  | some .fill => .fill p
  | some .refillFallback => .refillFallback p
  | some .acquireRead => .acquireRead p
  | some .release => .release p
  | some .renew => .renew p
  | some .queryStream => .queryStream p
  | some .queryBuffer => .queryBuffer p
  | some .queryDevice => .queryDevice p

/-- A payload field as a number (R189, R191). -/
def RequestFrame.field (f : RequestFrame) (offset width : Nat) : Nat := fieldAt f.payload offset width

/-- The handle at the start of a payload (R191, R192). -/
def RequestFrame.handle (f : RequestFrame) : BitVec 16 := BitVec.ofNat 16 (f.field 0 2)

/-! ## Replies -/

/-- A result and its payload (R157). -/
structure Reply where
  result : Result
  payload : List Byte
deriving DecidableEq, Repr

/-- A result with an empty payload (R157). -/
def Reply.refuse (r : Result) : Reply := { result := r, payload := [] }

/-- Result OK with a payload (R157). -/
def Reply.ok (payload : List Byte) : Reply := { result := .ok, payload := payload }

/-- What a sequence of checks gives: an answer that ends the request, or what the next check needs. -/
abbrev Checked (α : Type) := Except (State × Reply) α

/-- A check that fails with a result and changes nothing (R154). -/
def check (holds : Bool) (r : Result) (s : State) : Checked Unit :=
  if holds then .ok () else .error (s, .refuse r)

/-- The end of a sequence of checks: the answer of the first that failed, or the action's. -/
def answer (c : Checked (State × Reply)) : State × Reply :=
  match c with
  | .error r => r
  | .ok r => r

/-! ## Steps of the common check order -/

/-- Step 2 for every request but ATTACH: attachment and session (R155). -/
def checkSession (p : Port) (f : RequestFrame) (s : State) : Checked Unit := do
  check (s.port p).inForce .notAttached s
  check (decide (f.session = (s.port p).session)) .staleSession s

/-- Step 4 for a request that names a stream: its existence and state (R25). -/
def checkStream (id : Nat) (admits : StreamPhase → Bool) (s : State) : Checked (StreamId × Stream) :=
  if h : id < 16 then
    match s.stream ⟨id, h⟩ with
    | none => .error (s, .refuse .unknownStream)
    | some st => if admits st.phase then .ok (⟨id, h⟩, st) else .error (s, .refuse .streamState)
  else .error (s, .refuse .unknownStream)

/-- A CLOSING stream. -/
def StreamPhase.isClosing : StreamPhase → Bool
  | .closing _ => true
  | _ => false

/-- The states that admit CLOSE_STREAM and JOIN (R25). -/
def admitsJoin (x : StreamPhase) : Bool := decide (x = .preparing) || decide (x = .opened)

/-- The states that admit LEAVE (R25). -/
def admitsLeave (x : StreamPhase) : Bool := !x.isClosing

/-- The states that admit ACQUIRE_WRITE, PUBLISH, DISCARD, FILL and REFILL_FALLBACK (R13, R25). -/
def admitsWrite (x : StreamPhase) : Bool := decide (x = .opened)

/-- The states that admit ACQUIRE_READ (R25). -/
def admitsRead (x : StreamPhase) : Bool := decide (x = .opened) || decide (x = .orphaned)

/-- The states that admit RELEASE and RENEW (R13, R25). -/
def admitsRelease (x : StreamPhase) : Bool := decide (x ≠ .preparing)

/-- Whether a port holds the right that a handle's kind, index and generation name (R12). -/
def State.handleValid (s : State) (p : Port) (kind : HandleKind) (i : RecordId) (g : BitVec 8) : Bool :=
  decide ((s.record i).generation = g) &&
    match kind with
    | .write => decide ((s.record i).writer = some p)
    | .read => (s.record i).heldBy p

/-- The answer to an invalid handle: EXPIRED takes it out of the port's list, else STALE_HANDLE (R14). -/
def invalidHandle (p : Port) (h : BitVec 16) (s : State) : State × Reply :=
  if (s.port p).expired.contains h then (s.modPort p (AgentPort.forgetExpired h), .refuse .expired)
  else (s, .refuse .staleHandle)

/-- What a handle that passed steps 4 and 6 names. -/
structure HandleTarget where
  kind : HandleKind
  index : RecordId
  streamId : StreamId
  stream : Stream

/-- Steps 4 and 6 for a request that carries a handle: the state of the record's stream, validity, then the
kind, `none` for either kind (R13, R14, R192). -/
def checkHandle (p : Port) (h : BitVec 16) (admits : StreamPhase → Bool) (kind : Option HandleKind)
    (s : State) : Checked HandleTarget :=
  match parseHandle h with
  | none => .error (invalidHandle p h s)
  | some (held, i, g) =>
    match (s.record i).assignment with
    | none => .error (invalidHandle p h s)
    | some a =>
      match s.stream a.stream with
      | none => .error (s, .refuse .unknownStream)
      | some st =>
        if !admits st.phase then .error (s, .refuse .streamState)
        else if !s.handleValid p held i g then .error (invalidHandle p h s)
        else if kind.isSome && kind ≠ some held then .error (s, .refuse .wrongKind)
        else .ok { kind := held, index := i, streamId := a.stream, stream := st }

/-! ## The execution of a request -/

/-- The frame of the request the core is executing for a port, with the time of its grant (R150).
(DESIGN CHOICE, unsafe: log entry 1.) -/
def State.executing (s : State) (p : Port) : Option (RequestFrame × Time) :=
  match s.core, (s.port p).request with
  | some { item := .request q, takenAt := t }, .taken (.request f) => if q = p then some (f, t) else none
  | _, _ => none

/-- Place the response: the response slot becomes FULL and the request slot EMPTY; at a RESETTING port the
response is discarded and the forced detach takes the slot (R150, R178). -/
def AgentPort.placeResponse (r : ResponseFrame) (q : AgentPort) : AgentPort :=
  if q.state = .resetting then { q with request := .held .forcedDetach }
  else { q with request := .empty, response := some r }

/-- The end of a request's execution (R150). -/
def State.endRequest (p : Port) (f : RequestFrame) (r : State × Reply) : State :=
  (r.1.modPort p (AgentPort.placeResponse
    { result := r.2.result, code := f.code, payload := r.2.payload })).finish

/-- Execute the request of a port when it is the one the core has taken and it is of this kind; in any
other state the event does not take place. (DESIGN CHOICE, unsafe: log entry 1.) -/
def State.runRequest (p : Port) (kind : Option Request)
    (body : RequestFrame → Time → State → State × Reply) (s : State) : State :=
  match s.executing p with
  | none => s
  | some (f, t) => if f.request = kind then State.endRequest p f (body f t s) else s

end Sys2Proof.Machine
end

