-- ==== Sys2Proof/Machine/Flags.lean ====
section
/-! DEFINITION. Status words, response flags and pins: what the block shows of its state (R78, R172, R180,
R191, R193, R195). -/

namespace Sys2Proof.Machine

/-! ## Port status -/

/-- The port state as R193 codes it. -/
def PortState.code : PortState → Nat
  | .init => 0
  | .detached => 1
  | .attached => 2
  | .resetting => 3

/-- The request slot as R193 codes it. -/
def RequestSlot.code : RequestSlot → Nat
  | .empty => 0
  | .held _ => 1
  | .taken _ => 2

/-- The 4-byte port status word (R172, R193). -/
def statusBytes (p : Port) (q : AgentPort) : List Byte :=
  [BitVec.ofNat 8 (q.state.code + 4 * q.request.code) ||| flagBit 4 q.response.isSome |||
      flagBit 5 q.inForce ||| flagBit 6 q.rejected ||| flagBit 7 q.frameError,
    q.session, BitVec.ofNat 8 q.notices.length, BitVec.ofNat 8 p.val]

/-- The ATTN output: a level that follows its inputs (R180). -/
def AgentPort.attn (q : AgentPort) : Bool :=
  decide (q.state = .attached) &&
    ((q.response.isSome && q.responseAttention) || (!q.notices.isEmpty && q.noticeAttention))

/-! ## Results and enumerated fields -/

/-- The result codes (R194). -/
def Result.code : Result → Byte
  | .ok => 0x00
  | .empty => 0x01
  | .badFrame => 0x02
  | .notAttached => 0x03
  | .alreadyAttached => 0x04
  | .staleSession => 0x05
  | .badRequest => 0x06
  | .badParameter => 0x07
  | .badDescriptor => 0x08
  | .regionConflict => 0x09
  | .noStream => 0x0A
  | .noRecords => 0x0B
  | .unknownStream => 0x0C
  | .streamState => 0x0D
  | .notProducer => 0x0E
  | .notMember => 0x0F
  | .alreadyMember => 0x10
  | .roleConflict => 0x11
  | .memberLimit => 0x12
  | .roleLimit => 0x13
  | .noCapacity => 0x14
  | .noBuffer => 0x15
  | .noFrame => 0x16
  | .holdLimit => 0x17
  | .staleHandle => 0x18
  | .expired => 0x19
  | .wrongKind => 0x1A
  | .fillPending => 0x1B
  | .fillQueueFull => 0x1C
  | .noLease => 0x1D
  | .fallbackHeld => 0x1E
  | .noFallback => 0x1F

/-- The stream state of a live stream (R194). -/
def StreamPhase.code : StreamPhase → Byte
  | .preparing => 1
  | .opened => 2
  | .orphaned => 3
  | .closing _ => 4

/-- The state of a context, CLOSED included (R194). -/
def State.streamCode (s : State) (k : StreamId) : Byte :=
  match s.stream k with
  | none => 0
  | some st => st.phase.code

/-- The policy code (R194). -/
def Policy.code : Policy → Byte
  | .queue => 0
  | .latest => 1

/-- The overflow rule code (R194). -/
def OverflowRule.code : OverflowRule → Byte
  | .block => 0
  | .dropOldest => 1

/-- The close origin code (R194). -/
def CloseOrigin.code : CloseOrigin → Byte
  | .request => 0
  | .departure => 1
  | .failure => 2

/-- The fallback condition code (R194). -/
def FallbackCondition.code : FallbackCondition → Byte
  | .filling => 0
  | .valid => 1
  | .invalid => 2

/-- The tracker state code (R194). -/
def TrackerState.code : TrackerState → Byte
  | .idle => 0
  | .acquiring => 1
  | .locked => 2
  | .stalled => 3

/-- A Boolean field of a response: 0 no, 1 yes (R194). -/
def boolByte (b : Bool) : Byte := if b then 1 else 0

/-! ## Frames out -/

/-- A response frame with its length and CRC (R171, R189, R190). -/
def responseBytes (r : ResponseFrame) : List Byte :=
  withCrc ([r.result.code, r.code, BitVec.ofNat 8 r.payload.length] ++ r.payload)

/-- The EMPTY frame of a COLLECT with an empty slot (R171, R189). -/
def emptyFrame : ResponseFrame := { result := .empty, code := 0, payload := [] }

/-! ## ACQUIRE_READ flags -/

/-- The four flags of an ACQUIRE_READ response (R78). -/
structure ReadFlags where
  repeated : Bool
  fallback : Bool
  stale : Bool
  orphaned : Bool
deriving DecidableEq, Repr

/-- The flags byte (R191). -/
def ReadFlags.toByte (x : ReadFlags) : Byte :=
  flagBit 0 x.repeated ||| flagBit 1 x.fallback ||| flagBit 2 x.stale ||| flagBit 3 x.orphaned

/-- Whether the tracker of a stream reads STALLED now (R128). -/
def State.stalled (s : State) (k : StreamId) : Bool := decide ((s.tracker k).state = .stalled)

/-- The flags of a response: STALE excludes FALLBACK, ORPHANED is the stream's state (R78). -/
def State.readFlags (s : State) (k : StreamId) (st : Stream) (repeated fallback : Bool) : ReadFlags :=
  { repeated := repeated, fallback := fallback, stale := s.stalled k && !fallback,
    orphaned := decide (st.phase = .orphaned) }

/-! ## Fill port pins -/

/-- FAVALID: high for a burst the memory manager has not accepted (R134, R195). -/
def FillEngine.favalid (e : FillEngine) : Bool :=
  match e.state with
  | .running b => !b.accepted
  | _ => false

/-- FADDR[39:8] and FATAG[3:0] of the burst in flight (R195). -/
def FillEngine.faddr (e : FillEngine) : Option (BitVec 32 × BitVec 4) :=
  match e.state with
  | .running b => some ((b.address >>> 8).setWidth 32, b.tag)
  | _ => none

end Sys2Proof.Machine
end

