-- ==== Sys2Proof/Machine/Ports.lean ====
section
/-! DEFINITION. The transactions of an agent port (R168–R173, R177, R178, R187, R188). -/

namespace Sys2Proof.Machine

/-- The outcome of a command that leaves a state. -/
abbrev Outcome := Host.Outcome State Fault Refusal

/-! ## The select line -/

/-- A falling edge of select: after reset release it may start a transaction, before it the line is held across
the release (R165, R168). (DESIGN CHOICE, unsafe: log entry 12.) -/
def AgentPort.fall (resetAsserted : Bool) (q : AgentPort) : AgentPort :=
  if q.select = .high then { q with select := if resetAsserted then .held else .low, sdo := [] } else q

/-- The falling edge of select of any transaction (R168). -/
def State.selectFalls (p : Port) (s : State) : State := s.modPort p (AgentPort.fall s.resetAsserted)

/-- A rising edge of select with no transaction under way: the line is high again and nothing else happens, whether
it was held across reset release or rose before the code byte was complete (R165, R168). -/
def State.selectRises (p : Port) (s : State) : State :=
  if (s.port p).transaction.isNone then s.modPort p fun q => { q with select := .high } else s

/-- A code byte may begin a transaction: RESETn is released, select fell after the release, and no transaction
is under way on the port (R165, R168). (DESIGN CHOICE, unsafe: log entry 1.) -/
def State.mayBegin (s : State) (p : Port) : Bool :=
  !s.resetAsserted && decide ((s.port p).select = .low) && (s.port p).transaction.isNone

/-- The end of the code byte: the transaction is under way, and 0x00 was shifted out meanwhile (R168, R189).
(DESIGN CHOICE, unsafe: log entry 12.) -/
def AgentPort.begin (x : Transaction) (q : AgentPort) : AgentPort :=
  { q with transaction := some x, sdo := [0x00] }

/-- The rising edge of select that ends a transaction, whose bytes behind the code have been shifted out behind
the 0x00 of the code byte (R168, R189). (DESIGN CHOICE, unsafe: log entry 12.) -/
def AgentPort.rise (out : List Byte) (q : AgentPort) : AgentPort :=
  { q with select := .high, transaction := none, sdo := 0x00 :: out }

/-! ## SUBMIT -/

/-- Whether a port accepts a frame at the end of the SUBMIT code byte (R169). -/
def AgentPort.accepts (q : AgentPort) : Bool :=
  (decide (q.state = .detached) || decide (q.state = .attached)) && decide (q.request = .empty) &&
    q.response.isNone

/-- The frame in the bytes received, when it passes the length and CRC checks (R170). -/
def checkedFrame (bytes : List Byte) : Option RequestFrame :=
  match bytes with
  | code :: session :: length :: rest =>
    if length.toNat ≤ Config.requestPayload && rest.length = length.toNat + 2 &&
        crc16 (bytes.take (3 + length.toNat)) = BitVec.ofNat 16 (fieldAt rest length.toNat 2) then
      some { code := code, session := session, payload := rest.take length.toNat }
    else none
  | _ => none

/-- The port's own BAD_FRAME response, with the request code as received (R170). -/
def badFrame (bytes : List Byte) : ResponseFrame :=
  { result := .badFrame, code := bytes.headD 0, payload := [] }

/-- An accepted frame at the rising edge of select: HELD, or BAD_FRAME (R169, R170). -/
def AgentPort.receive (bytes : List Byte) (q : AgentPort) : AgentPort :=
  match checkedFrame bytes with
  | some f => { q with request := .held (.request f) }
  | none => { q with response := some (badFrame bytes), frameError := true }

/-- The rising edge of a SUBMIT that began with this decision (R169). -/
def AgentPort.endSubmit (accepted : Bool) (bytes : List Byte) (q : AgentPort) : AgentPort :=
  let q := q.rise (List.replicate bytes.length 0)
  if accepted then q.receive bytes else { q with rejected := true }

/-- SUBMIT (R169). (DEDUCED, unsafe: log entry 5.) -/
def execSubmit (p : Port) (edge : SubmitEdge) (s : State) : Outcome :=
  match edge with
  | .fall => .next (s.selectFalls p)
  | .code => .next (if s.mayBegin p then s.modPort p fun q => q.begin (.submit q.accepts) else s)
  | .rise bytes =>
    match (s.port p).transaction with
    | some (.submit accepted) => .next (s.modPort p (AgentPort.endSubmit accepted bytes)).arbitrate
    | _ => .next (s.selectRises p)

/-! ## COLLECT -/

/-- The copy a COLLECT takes: the slot's frame or an EMPTY frame (R171). -/
def AgentPort.beginCollect (q : AgentPort) : AgentPort :=
  q.begin (.collect (responseBytes (q.response.getD emptyFrame)) q.response.isSome)

/-- The rising edge of a COLLECT: a FULL slot whose whole copy was clocked out becomes EMPTY (R171). -/
def AgentPort.endCollect (copy : List Byte) (full : Bool) (clocked : Nat) (q : AgentPort) : AgentPort :=
  let q := q.rise (shiftedOut copy clocked)
  if full && copy.length ≤ clocked then { q with response := none } else q

/-- COLLECT (R171). (DEDUCED, unsafe: log entry 5.) -/
def execCollect (p : Port) (edge : ReadEdge) (s : State) : Outcome :=
  match edge with
  | .fall => .next (s.selectFalls p)
  | .code => .next (if s.mayBegin p then s.modPort p AgentPort.beginCollect else s)
  | .rise clocked =>
    match (s.port p).transaction with
    | some (.collect copy full) => .next (s.modPort p (AgentPort.endCollect copy full clocked))
    | _ => .next (s.selectRises p)

/-! ## STATUS -/

/-- The copy a STATUS takes: the status word, and which latches it shows set (R172). -/
def AgentPort.beginStatus (p : Port) (q : AgentPort) : AgentPort :=
  q.begin (.status (statusBytes p q) q.rejected q.frameError)

/-- The rising edge of a STATUS: after the whole word, each latch shown set is cleared (R172). -/
def AgentPort.endStatus (copy : List Byte) (rejected frameError : Bool) (clocked : Nat) (q : AgentPort) :
    AgentPort :=
  let q := q.rise (shiftedOut copy clocked)
  if copy.length ≤ clocked then
    { q with rejected := q.rejected && !rejected, frameError := q.frameError && !frameError }
  else q

/-- STATUS (R172). (DEDUCED, unsafe: log entry 5.) -/
def execStatus (p : Port) (edge : ReadEdge) (s : State) : Outcome :=
  match edge with
  | .fall => .next (s.selectFalls p)
  | .code => .next (if s.mayBegin p then s.modPort p (AgentPort.beginStatus p) else s)
  | .rise clocked =>
    match (s.port p).transaction with
    | some (.status copy rejected frameError) =>
      .next (s.modPort p (AgentPort.endStatus copy rejected frameError clocked))
    | _ => .next (s.selectRises p)

/-! ## NOTICE -/

/-- The copy a NOTICE takes: the head record, now in transfer, or NONE (R187). -/
def AgentPort.beginNotice (q : AgentPort) : AgentPort :=
  q.begin (.notice (noticeBytes q.notices.head?) (!q.notices.isEmpty) 0 0)

/-- The rising edge of a NOTICE: a head in transfer whose whole copy was clocked out is treated by its
tally (R187, R188). -/
def AgentPort.endNotice (copy : List Byte) (transfer : Bool) (tally : Nat) (sum : BitVec 32)
    (clocked : Nat) (q : AgentPort) : AgentPort :=
  let q := q.rise (shiftedOut copy clocked)
  if transfer && copy.length ≤ clocked then q.popHead tally sum else q

/-- NOTICE (R173, R187, R188). (DEDUCED, unsafe: log entry 5.) -/
def execNotice (p : Port) (edge : ReadEdge) (s : State) : Outcome :=
  match edge with
  | .fall => .next (s.selectFalls p)
  | .code => .next (if s.mayBegin p then s.modPort p AgentPort.beginNotice else s)
  | .rise clocked =>
    match (s.port p).transaction with
    | some (.notice copy transfer tally sum) =>
      .next (s.modPort p (AgentPort.endNotice copy transfer tally sum clocked))
    | _ => .next (s.selectRises p)

/-! ## PORT_RESET -/

/-- The request slot of a port that enters RESETTING: the forced detach takes it unless a request is
TAKEN (R178). -/
def RequestSlot.forceDetach : RequestSlot → RequestSlot
  | .taken i => .taken i
  | _ => .held .forcedDetach

/-- A port enters RESETTING (R177). -/
def AgentPort.enterResetting (q : AgentPort) : AgentPort :=
  { q.emptyNotices with
    state := .resetting, rejected := false, frameError := false, response := none
    request := q.request.forceDetach }

/-- PORT_RESET (R177, R178): ignored in INIT and RESETTING. (DEDUCED, unsafe: log entry 5.) -/
def execPortReset (p : Port) (edge : SelectEdge) (s : State) : Outcome :=
  match edge with
  | .fall => .next (s.selectFalls p)
  | .rise clocked =>
    if s.mayBegin p then
      let s := s.modPort p (AgentPort.rise (List.replicate clocked 0))
      match (s.port p).state with
      | .init | .resetting => .next s
      | .detached | .attached => .next (s.modPort p AgentPort.enterResetting).arbitrate
    else .next (s.selectRises p)

/-! ## UNKNOWN_TRANSACTION -/

/-- UNKNOWN_TRANSACTION (R168): refused with zeros out and REJECTED set; without a whole code byte it has no
effect. A rising edge behind one of the five codes is no such transaction's.
(DESIGN CHOICE, unsafe: log entry 18.) -/
def execUnknownTransaction (p : Port) (code : Option Byte) (edge : SelectEdge) (s : State) : Outcome :=
  match edge with
  | .fall => .next (s.selectFalls p)
  | .rise clocked =>
    match code with
    | none => .next (s.selectRises p)
    | some c =>
      if (transactionOf c).isSome then .next s
      else if s.mayBegin p then
        .next (s.modPort p fun q => { q.rise (List.replicate clocked 0) with rejected := true })
      else .next (s.selectRises p)

end Sys2Proof.Machine
end

