-- ==== Sys2Proof/Machine/Producing.lean ====
section
/-! DEFINITION. ACQUIRE_WRITE, PUBLISH, DISCARD, FILL and REFILL_FALLBACK (spec 03, 07). -/

namespace Sys2Proof.Machine

/-- A wide optional field with its presence bit (R189, R191). -/
def presence (bit : Nat) (v : Option (BitVec 32)) : Byte := flagBit bit v.isSome

/-- A 32-bit value in 4 bytes, zeros when absent (R189). -/
def optionWord (v : Option (BitVec 32)) : List Byte := optionBytes 4 (v.map BitVec.toNat)

/-- The handle, base and length an acquire answers with (R49, R79, R191). -/
def handleBytes (kind : HandleKind) (i : RecordId) (r : BufferRecord) : List Byte :=
  bytesOfNat 2 (formHandle kind i r.generation).toNat ++ bytesOfNat 5 r.base.toNat ++
    bytesOfNat 4 r.length.toNat

/-- The lease deadline an acquire or RENEW answers with, absent when the lease is 0 (R49, R79, R101). -/
def grantedDeadline (now : Time) (units : BitVec 16) : Option Time :=
  if units = 0 then none else some (leaseDeadline now units)

/-! ## ACQUIRE_WRITE -/

/-- Where the buffer of an ACQUIRE_WRITE comes from (R48). -/
inductive WriteChoice where
  | head (i : RecordId)
  | victim (i : RecordId)
deriving DecidableEq, Repr

/-- The record chosen. -/
def WriteChoice.index : WriteChoice → RecordId
  | .head i => i
  | .victim i => i

/-- The victim of a DROP_OLDEST acquisition: the first unheld record of the ready list (R50). -/
def State.victimOf (s : State) (st : Stream) : Option RecordId :=
  st.ready.find? fun i => (s.record i).unheld

/-- The choice of a buffer for an ACQUIRE_WRITE (R48). -/
def State.chooseWrite (s : State) (st : Stream) : Option WriteChoice :=
  match st.free with
  | i :: _ => some (.head i)
  | [] =>
    if st.policy = .queue && st.overflow = .dropOldest then (s.victimOf st).map WriteChoice.victim else none

/-- The ports of the consumers still owed a record, in consumer-list order (R51). -/
def Stream.owedPorts (st : Stream) (r : BufferRecord) : List Port :=
  (st.consumers.map Consumer.port).filter r.owedTo

/-- Drop a victim frame (R51); the record then passes to WRITING. -/
def State.dropVictim (i : RecordId) (k : StreamId) (st : Stream) (s : State) : State :=
  let r := s.record i
  let s := s.setStream k (some { st with
    ready := st.ready.filter fun j => j ≠ i
    consumers := st.consumers.map fun c => if r.owedTo c.port then c.skip else c
    dropped := st.dropped + 1 })
  s.notifyEach (st.owedPorts r) .frameDropped k (r.stamp.map FrameStamp.sequence)

/-- The sequence an ACQUIRE_WRITE dropped, absent when the choice came from the free list (R49). -/
def State.droppedSequence (s : State) (c : WriteChoice) : Option (BitVec 32) :=
  match c with
  | .head _ => none
  | .victim i => (s.record i).stamp.map FrameStamp.sequence

/-- Give the chosen record to the producer (R49). -/
def State.grantWrite (p : Port) (k : StreamId) (st : Stream) (c : WriteChoice) (s : State) : State :=
  let i := c.index
  let s := match c with
    | .head _ => s.modStream k fun st => { st with free := st.free.drop 1 }
    | .victim i => s.dropVictim i k st
  let s := s.modRecord i fun r => (r.toFrame (.writing p)).raise
  let s := s.grantLease .write i p st.writeLease
  let s := s.modStream k fun st => { st with producerWaiting := false }
  s.modPort p (AgentPort.forgetExpired (formHandle .write i (s.record i).generation))

/-- The execution of ACQUIRE_WRITE (R47, R49). -/
def acquireWriteRequest (p : Port) (f : RequestFrame) (_t : Time) (s : State) : State × Reply :=
  answer do
    checkSession p f s
    let (k, st) ← checkStream (f.field 0 1) admitsWrite s
    check (decide (st.producer = p)) .notProducer s
    check (s.writingOf k).isNone .holdLimit s
    match s.chooseWrite st with
    | none =>
      .error (s.modStream k fun st => { st with producerWaiting := true }, .refuse .noBuffer)
    | some c =>
      check (!s.leaseRefused st.writeLease) .noLease s
      let s' := s.grantWrite p k st c
      let deadline := grantedDeadline s.timebase st.writeLease
      let dropped := s.droppedSequence c
      .ok (s', .ok (handleBytes .write c.index (s'.record c.index) ++
        [presence 0 deadline ||| presence 1 dropped] ++ optionWord deadline ++ optionWord dropped))

/-- ACQUIRE_WRITE (R49). -/
def execAcquireWrite (p : Port) (s : State) : Outcome :=
  .next (s.runRequest p (some .acquireWrite) (acquireWriteRequest p))

/-! ## PUBLISH -/

/-- The first actions of a PUBLISH, whatever the policy: sequence and publish time are given by the caller;
lease entry, published counter, next sequence and tracker change here (R56). -/
def State.beginPublish (p : Port) (x : HandleTarget) (t : Time) (s : State) : State :=
  let s := s.endLease (formHandle .write x.index (s.record x.index).generation) p
  let s := s.modStream x.streamId fun st =>
    { st with nextSequence := nextSequence st.nextSequence, published := st.published + 1 }
  s.modTracker x.streamId (Tracker.publication t)

/-- The published record joins the ready list of a QUEUE stream (R57). -/
def State.placeQueue (x : HandleTarget) (m : FrameStamp) (s : State) : State :=
  let ports := x.stream.consumers.map Consumer.port
  let s := s.modRecord x.index
    (BufferRecord.toFrame (.ready m (some (PortSet.ofList ports)) PortSet.empty))
  let s := s.modStream x.streamId fun st => { st with ready := st.ready ++ [x.index] }
  s.notifyEach ports .frameAvailable x.streamId (some m.sequence)

/-- A QUEUE publication with no consumers is dropped at once (R58). -/
def State.dropUnread (x : HandleTarget) (s : State) : State :=
  (s.modStream x.streamId fun st => { st with dropped := st.dropped + 1 }).becomeFree x.index x.streamId

/-- The superseded frame of a LATEST stream leaves the ready list, and the consumers that were not given it
are counted as skipping it (R59, R60). (DESIGN CHOICE, unsafe: log entry 14.) -/
def State.supersede (x : HandleTarget) (s : State) : State :=
  match x.stream.ready with
  | [] => s
  | old :: _ =>
    let seq := (s.record old).stamp.map FrameStamp.sequence
    let s := s.modStream x.streamId fun st =>
      { st with
        ready := [], consumers := st.consumers.map fun c => if c.lastDelivered = seq then c else c.skip }
    s.retire old x.streamId

/-- The published record becomes the single READY record of a LATEST stream (R61). -/
def State.placeLatest (x : HandleTarget) (m : FrameStamp) (s : State) : State :=
  let s := s.supersede x
  let s := s.modRecord x.index (BufferRecord.toFrame (.ready m none PortSet.empty))
  let s := s.modStream x.streamId fun st => { st with ready := [x.index] }
  s.notifyEach (x.stream.consumers.map Consumer.port) .frameAvailable x.streamId (some m.sequence)

/-- Whether a publication is dropped unread (R58). -/
def Stream.unread (st : Stream) : Bool := decide (st.policy = .queue) && st.consumers.isEmpty

/-- Place the published frame (R57–R61). -/
def State.placeFrame (x : HandleTarget) (m : FrameStamp) (s : State) : State :=
  match x.stream.policy with
  | .queue => if x.stream.unread then s.dropUnread x else s.placeQueue x m
  | .latest => s.placeLatest x m

/-- The execution of PUBLISH (R55, R56, R62). The publish time is the timebase value at the grant.
(DESIGN CHOICE, unsafe: log entry 4; DEDUCED, unsafe: log entry 8.) -/
def publishRequest (p : Port) (f : RequestFrame) (t : Time) (s : State) : State × Reply :=
  answer do
    checkSession p f s
    let x ← checkHandle p f.handle admitsWrite (some .write) s
    check (decide ((s.record x.index).fill = .noJob)) .fillPending s
    let m : FrameStamp := { sequence := x.stream.nextSequence, publishTime := t }
    .ok ((s.beginPublish p x t).placeFrame x m,
      .ok (bytesOfNat 4 m.sequence.toNat ++ bytesOfNat 4 t.toNat ++
        [BitVec.ofNat 8 x.stream.consumers.length, flagBit 0 x.stream.unread]))

/-- PUBLISH (R56). -/
def execPublish (p : Port) (s : State) : Outcome :=
  .next (s.runRequest p (some .publish) (publishRequest p))

/-! ## DISCARD -/

/-- The execution of DISCARD (R65). -/
def discardRequest (p : Port) (f : RequestFrame) (_t : Time) (s : State) : State × Reply :=
  answer do
    checkSession p f s
    let x ← checkHandle p f.handle admitsWrite (some .write) s
    let s' := s.endWriteHandle x.index p x.streamId
    .ok (s', .ok [(s'.record x.index).stateCode])

/-- DISCARD (R65). -/
def execDiscard (p : Port) (s : State) : Outcome :=
  .next (s.runRequest p (some .discard) (discardRequest p))

/-! ## FILL -/

/-- The offset of a FILL, in units of 256 bytes (R142, R191). -/
def RequestFrame.fillOffset (f : RequestFrame) : Nat := f.field 6 3

/-- The length of a FILL, in units of 256 bytes; 0 means to the end of the buffer (R142, R191). -/
def RequestFrame.fillLength (f : RequestFrame) : Nat := f.field 9 3

/-- Whether the region of a FILL lies in a buffer of a length in bytes (R142). -/
def RequestFrame.fillFits (f : RequestFrame) (length : Nat) : Bool :=
  decide (f.fillOffset * 256 < length) &&
    (decide (f.fillLength = 0) || decide ((f.fillOffset + f.fillLength) * 256 ≤ length))

/-- The job of a FILL (R143). (DEDUCED, safe: log entry 10.) -/
def RequestFrame.fillOrder (f : RequestFrame) (i : RecordId) (r : BufferRecord) (requester : Port) :
    FillOrder :=
  { index := i, kind := .frameFill, requester := requester, pattern := BitVec.ofNat 32 (f.field 2 4)
    start := r.base + BitVec.ofNat 40 (f.fillOffset * 256)
    stop := if f.fillLength = 0 then r.base + r.length.setWidth 40
      else r.base + BitVec.ofNat 40 ((f.fillOffset + f.fillLength) * 256) }

/-- The execution of FILL (R142, R143). -/
def fillRequest (p : Port) (f : RequestFrame) (_t : Time) (s : State) : State × Reply :=
  answer do
    checkSession p f s
    check (decide (f.fillOffset ≤ 262143) && decide (f.fillLength ≤ 262144)) .badParameter s
    let x ← checkHandle p f.handle admitsWrite (some .write) s
    check (f.fillFits (s.record x.index).length.toNat) .badParameter s
    check (decide ((s.record x.index).fill = .noJob)) .fillPending s
    check (!s.engine.isFull) .fillQueueFull s
    .ok (s.submitFill (f.fillOrder x.index (s.record x.index) x.stream.producer), .ok [s.engine.nextTag])

/-- FILL (R143). -/
def execFill (p : Port) (s : State) : Outcome := .next (s.runRequest p (some .fill) (fillRequest p))

/-! ## REFILL_FALLBACK -/

/-- The execution of a REFILL_FALLBACK whose checks passed (R144). -/
def State.refillFallback (k : StreamId) (st : Stream) (i : RecordId) (pattern : BitVec 32) (s : State) :
    State :=
  let s := s.modStream k fun st => { st with fallbackPattern := some pattern }
  let s := s.modRecord i (BufferRecord.setCondition .filling)
  s.submitFill (fallbackOrder i (s.record i) st.producer pattern)

/-- The execution of REFILL_FALLBACK (R144). -/
def refillFallbackRequest (p : Port) (f : RequestFrame) (_t : Time) (s : State) : State × Reply :=
  answer do
    checkSession p f s
    let (k, st) ← checkStream (f.field 0 1) admitsWrite s
    check (decide (st.producer = p)) .notProducer s
    match s.fallbackOf k with
    | none => .error (s, .refuse .noFallback)
    | some i =>
      check (s.record i).unheld .fallbackHeld s
      check (decide ((s.record i).fill = .noJob)) .fillPending s
      check (!s.engine.isFull) .fillQueueFull s
      .ok (s.refillFallback k st i (BitVec.ofNat 32 (f.field 1 4)), .ok [s.engine.nextTag])

/-- REFILL_FALLBACK (R144). -/
def execRefillFallback (p : Port) (s : State) : Outcome :=
  .next (s.runRequest p (some .refillFallback) (refillFallbackRequest p))

end Sys2Proof.Machine
end

