-- ==== Sys2Proof/Machine/Consuming.lean ====
section
/-! DEFINITION. ACQUIRE_READ, RELEASE and RENEW (spec 04, 05). -/

namespace Sys2Proof.Machine

/-! ## ACQUIRE_READ -/

/-- What an ACQUIRE_READ gives (R71, R74). -/
inductive ReadChoice where
  | queued (i : RecordId)
  | fallback (i : RecordId)
  | latest (i : RecordId) (repeated : Bool)
deriving DecidableEq, Repr

/-- The record given. -/
def ReadChoice.index : ReadChoice → RecordId
  | .queued i => i
  | .fallback i => i
  | .latest i _ => i

/-- Whether the choice is a repeat of the frame given last (R78). -/
def ReadChoice.isRepeat : ReadChoice → Bool
  | .latest _ r => r
  | _ => false

/-- Whether the choice is the fallback (R78). -/
def ReadChoice.isFallback : ReadChoice → Bool
  | .fallback _ => true
  | _ => false

/-- The selection of a QUEUE stream: the oldest ready record owed to the port (R71). -/
def State.selectQueue (s : State) (st : Stream) (p : Port) : Option ReadChoice :=
  (st.ready.find? fun i => (s.record i).owedTo p).map ReadChoice.queued

/-- The fallback a LATEST stream gives in place of a live frame, if it does (R74, step 1). -/
def State.offeredFallback (s : State) (k : StreamId) (st : Stream) : Option RecordId :=
  (s.fallbackOf k).filter fun i =>
    decide ((s.record i).condition = some .valid) && (s.stalled k || st.ready.isEmpty)

/-- The selection of a LATEST stream: fallback, no frame, or the ready frame (R74). -/
def State.selectLatest (s : State) (k : StreamId) (st : Stream) (c : Consumer) : Option ReadChoice :=
  match s.offeredFallback k st with
  | some i => some (.fallback i)
  | none =>
    match st.ready with
    | [] => none
    | i :: _ =>
      if c.lastDelivered.isSome && c.lastDelivered = (s.record i).stamp.map FrameStamp.sequence then
        if c.repeatAllowed then some (.latest i true) else none
      else some (.latest i false)

/-- The selection of an ACQUIRE_READ (R71, R74). -/
def State.selectRead (s : State) (k : StreamId) (st : Stream) (c : Consumer) : Option ReadChoice :=
  match st.policy with
  | .queue => s.selectQueue st c.port
  | .latest => s.selectLatest k st c

/-- A QUEUE frame is given: the port moves from the pending set to the hold set, and a frame owed to no
other consumer leaves the ready list as DRAINING (R72). -/
def State.takeQueued (p : Port) (k : StreamId) (i : RecordId) (s : State) : State :=
  let s := s.modRecord i fun r => (r.mapPending fun x => x.drop p).mapHold fun x => x.add p
  match (s.record i).pendingSet with
  | none => s
  | some x =>
    if x.isEmpty then
      (s.modStream k fun st => { st with ready := st.ready.filter fun j => j ≠ i }).modRecord i
        BufferRecord.toDraining
    else s

/-- The policy's own actions of a grant (R72, R75, R76). -/
def State.takeRead (p : Port) (k : StreamId) (c : ReadChoice) (s : State) : State :=
  match c with
  | .queued i => s.takeQueued p k i
  | .fallback i | .latest i _ => s.modRecord i (BufferRecord.mapHold fun x => x.add p)

/-- The sequence a grant sets as last delivered; the fallback sets none (R75, R81). -/
def State.deliveredSequence (s : State) (c : ReadChoice) : Option (BitVec 32) :=
  if c.isFallback then none else (s.record c.index).stamp.map FrameStamp.sequence

/-- A grant changes the consumer's entry: read holds, skipped count, last delivered (R79, R80, R81). -/
def Consumer.given (seq : Option (BitVec 32)) (c : Consumer) : Consumer :=
  { c with
    readHolds := c.readHolds + 1, skipped := 0
    lastDelivered := if seq.isSome then seq else c.lastDelivered }

/-- The execution of a granted ACQUIRE_READ (R79). -/
def State.grantRead (p : Port) (k : StreamId) (st : Stream) (c : ReadChoice) (s : State) : State :=
  let seq := s.deliveredSequence c
  let s := s.takeRead p k c
  let s := s.modStream k (Stream.modConsumer p (Consumer.given seq))
  let s := s.grantLease .read c.index p st.readLease
  s.modPort p (AgentPort.forgetExpired (formHandle .read c.index (s.record c.index).generation))

/-- The payload of a granted ACQUIRE_READ (R79, R191). -/
def State.readPayload (s : State) (k : StreamId) (st : Stream) (e : Consumer) (c : ReadChoice) :
    List Byte :=
  let stamp := if c.isFallback then none else (s.record c.index).stamp
  let deadline := grantedDeadline s.timebase st.readLease
  handleBytes .read c.index (s.record c.index) ++ optionWord (stamp.map FrameStamp.sequence) ++
    optionWord (stamp.map FrameStamp.publishTime) ++
    [(s.readFlags k st c.isRepeat c.isFallback).toByte] ++ bytesOfNat 2 e.skipped ++
    [presence 0 deadline ||| presence 1 (stamp.map FrameStamp.publishTime)] ++ optionWord deadline

/-- The answer NO_FRAME, with the flags and the skipped count as it stands (R69, R157). -/
def State.noFrame (s : State) (k : StreamId) (st : Stream) (e : Consumer) : Reply :=
  { result := .noFrame
    payload := [(s.readFlags k st false false).toByte] ++ bytesOfNat 2 e.skipped }

/-- The execution of ACQUIRE_READ (R69, R79). -/
def acquireReadRequest (p : Port) (f : RequestFrame) (_t : Time) (s : State) : State × Reply :=
  answer do
    checkSession p f s
    let (k, st) ← checkStream (f.field 0 1) admitsRead s
    match st.consumer p with
    | none => .error (s, .refuse .notMember)
    | some e =>
      check (decide (e.readHolds ≠ e.holdLimit)) .holdLimit s
      match s.selectRead k st e with
      | none => .error (s, s.noFrame k st e)
      | some c =>
        check (!s.leaseRefused st.readLease) .noLease s
        .ok (s.grantRead p k st c, .ok (s.readPayload k st e c))

/-- ACQUIRE_READ (R79). -/
def execAcquireRead (p : Port) (s : State) : Outcome :=
  .next (s.runRequest p (some .acquireRead) (acquireReadRequest p))

/-! ## RELEASE -/

/-- The execution of RELEASE (R82, R83). The response carries the record's state after the whole request:
UNASSIGNED when the close of its stream completed in the same execution. (DEDUCED, unsafe: log entry 15.) -/
def releaseRequest (p : Port) (f : RequestFrame) (_t : Time) (s : State) : State × Reply :=
  answer do
    checkSession p f s
    let x ← checkHandle p f.handle admitsRelease (some .read) s
    let s' := (s.releaseHold x.index p x.streamId).completionCheck x.streamId
    .ok (s', .ok [(s'.record x.index).stateCode])

/-- RELEASE (R83). -/
def execRelease (p : Port) (s : State) : Outcome :=
  .next (s.runRequest p (some .release) (releaseRequest p))

/-! ## RENEW -/

/-- The lease of a stream for a kind of handle (R96). -/
def Stream.leaseOf (st : Stream) : HandleKind → BitVec 16
  | .write => st.writeLease
  | .read => st.readLease

/-- The execution of RENEW (R100, R101). -/
def renewRequest (p : Port) (f : RequestFrame) (_t : Time) (s : State) : State × Reply :=
  answer do
    checkSession p f s
    let x ← checkHandle p f.handle admitsRelease none s
    let units := x.stream.leaseOf x.kind
    match grantedDeadline s.timebase units with
    | none => .ok (s, .ok (presence 0 none :: optionWord none))
    | some d =>
      .ok (s.setLeases (renewLease s.timebase f.handle p d s.leases),
        .ok (presence 0 (some d) :: optionWord (some d)))

/-- RENEW (R101). -/
def execRenew (p : Port) (s : State) : Outcome := .next (s.runRequest p (some .renew) (renewRequest p))

end Sys2Proof.Machine
end

