-- ==== Sys2Proof/Machine/Events.lean ====
section
/-! DEFINITION. The events of the lease timer, the cadence monitor, the fill engine, the fill port and the
reset pin, and the passing of time (R102, R121, R132, R136, R137, R161, R163, R164, R195). -/

namespace Sys2Proof.Machine

/-! ## Deadlines -/

/-- Whether the timer would mark the head: none marked, head due (R102).
(DESIGN CHOICE, unsafe: log entry 1.) -/
def State.leaseDue (s : State) : Bool :=
  !s.leases.any LeaseEntry.marked &&
    match s.leases with
    | [] => false
    | e :: _ => reached s.timebase e.deadline

/-- LEASE_DEADLINE_REACHED (R102). -/
def execLeaseDeadlineReached (s : State) : Outcome :=
  if s.leaseDue then .next (s.setLeases (lookLeases s.timebase s.leases)).arbitrate else .next s

/-- WATCH_DEADLINE_REACHED (R121, R122). -/
def execWatchDeadlineReached (k : StreamId) (s : State) : Outcome :=
  if (s.tracker k).due s.timebase then .next (s.modTracker k Tracker.miss).arbitrate else .next s

/-! ## Fill port -/

/-- Base of the record the head job writes; 0 where there is none. -/
def State.headBase (s : State) : Address :=
  match s.engine.headIndex with
  | none => 0
  | some i => (s.record i).base

/-- The burst in flight ends (R136, R137, R138). -/
def State.endBurst (how : BurstEnd) (s : State) : State :=
  s.setEngine (s.engine.endBurst s.timebase s.headBase how)

/-- Whether a response matches the burst in flight (R136). -/
def FillEngine.matchesTag (tag : BitVec 4) (e : FillEngine) : Bool :=
  match e.state with
  | .running b => decide (b.tag = tag)
  | _ => false

/-- FILL_RESPONSE (R136): a response that does not match is ignored; one that matches ends the burst, accepted or
not. (DESIGN CHOICE, unsafe: log entry 19.) -/
def execFillResponse (tag : BitVec 4) (error : Bool) (s : State) : Outcome :=
  if s.engine.matchesTag tag then
    .next (s.endBurst (if error then .failed .error else .ok)).arbitrate
  else .next s

/-- BURST_TIMEOUT (R137). -/
def execBurstTimeout (s : State) : Outcome :=
  if s.engine.timedOut s.timebase then .next (s.endBurst (.failed .timeout)).arbitrate else .next s

/-- BURST_ACCEPTED (R195): the burst in flight is accepted and its 32 beats follow.
(DESIGN CHOICE, unsafe: log entry 11.) -/
def execBurstAccepted (s : State) : Outcome :=
  match s.engine.state, s.engine.jobs with
  | .running b, j :: _ =>
    if b.accepted then .next s
    else .next { s.setEngine { s.engine with state := .running { b with accepted := true } } with
      fillBeats := some { address := b.address, tag := b.tag, beats := patternBeats j.pattern } }
  | _, _ => .next s

/-- Whether QUIET ends now: the timebase has reached 1,000 µs after reset release (R132).
(DESIGN CHOICE, unsafe: log entry 1.) -/
def State.quietOver (s : State) : Bool :=
  decide (s.engine.state = .quiet) && !s.resetAsserted && reached s.timebase Config.quietPeriod

/-- QUIET_END (R132). -/
def execQuietEnd (s : State) : Outcome :=
  if s.quietOver then .next (s.setEngine (s.engine.startHead s.timebase)) else .next s

/-! ## Reset -/

/-- A select line through a device reset: the pin keeps its level, and a line that is low is held (R165). -/
def SelectLine.throughReset : SelectLine → SelectLine
  | .high => .high
  | .low | .held => .held

/-- A port after device reset: the values of R165, and its select line as the agent drives it. -/
def AgentPort.deviceReset (q : AgentPort) : AgentPort :=
  { AgentPort.reset with select := q.select.throughReset }

/-- DEVICE_RESET (R163): every field takes its value of device reset; the queue and the levels of the select
lines stay. (DESIGN CHOICE, unsafe: log entry 6.) -/
def execDeviceReset (s : State) : Outcome :=
  .next { State.reset with ports := s.ports.map AgentPort.deviceReset, pending := s.pending }

/-- The core writes its tables after reset release (R2, R21, R95, R106, R163).
(DESIGN CHOICE, unsafe: log entry 6.) -/
def State.writeTables (s : State) : State :=
  { s with
    records := State.reset.records, streams := State.reset.streams, leases := []
    ports := s.ports.map fun (q : AgentPort) => { q with expired := [] } }

/-- RESET_RELEASE (R161, R163): the timebase starts from 0 and the core writes its tables.
(DESIGN CHOICE, unsafe: log entry 6.) -/
def execResetRelease (s : State) : Outcome :=
  if s.resetAsserted then .next { s.writeTables with resetAsserted := false, timebase := 0 } else .next s

/-- A port leaves INIT for DETACHED (R164, R166). -/
def AgentPort.leaveInit (q : AgentPort) : AgentPort :=
  if q.state = .init then { q with state := .detached } else q

/-- INIT_END (R164): every port leaves INIT; the arbiter grants items from then on.
(DESIGN CHOICE, unsafe: log entry 6.) -/
def execInitEnd (s : State) : Outcome :=
  if s.resetAsserted || s.initOver then .next s
  else .next { s with ports := s.ports.map AgentPort.leaveInit }.arbitrate

/-! ## Time -/

/-- The command that ends the execution of an item. (DESIGN CHOICE, unsafe: log entry 14.) -/
def State.itemCommand (s : State) : Item → Instr
  | .request p =>
    match (s.port p).request with
    | .taken (.request f) => f.command p
    | _ => .unknownRequest p
  | .forcedDetach p => .forcedDetach p
  | .fillReport _ => .fillReportTaken
  | .leaseExpiry e => match e.kind with | .write => .writeExpiryTaken | .read => .readExpiryTaken
  | .cadenceReport k _ _ _ => .cadenceReportTaken k

/-- One microsecond passes: the timebase counts while RESETn is released (R161).
(DESIGN CHOICE, unsafe: log entry 2.) -/
def State.tick (s : State) : State := if s.resetAsserted then s else { s with timebase := s.timebase + 1 }

/-- The block's own events that are due, in the order in which they join the queue on an idle step: the end
of INIT, of QUIET, of a burst, a lease deadline, watch deadlines, and the end of the execution in progress.
(DESIGN CHOICE, unsafe: log entry 2.) -/
def State.dueEvents (s : State) : List Instr :=
  (if s.resetAsserted || s.initOver then [] else [.initEnd]) ++
  (if s.quietOver then [.quietEnd] else []) ++
  (if s.engine.timedOut s.timebase then [.burstTimeout] else []) ++
  (if s.leaseDue then [.leaseDeadlineReached] else []) ++
  ((allStreams.filter fun k => (s.tracker k).due s.timebase).map Instr.watchDeadlineReached) ++
  (match s.core with | none => [] | some x => [s.itemCommand x.item])

/-- An idle step: a microsecond passes and the block's own due events join the empty queue.
(DESIGN CHOICE, unsafe: log entry 2.) -/
def State.idle (s : State) : State := s.tick.setPending s.tick.dueEvents

end Sys2Proof.Machine
end

