-- ==== Sys2Proof/Machine/Queries.lean ====
section
/-! DEFINITION. QUERY_STREAM, QUERY_BUFFER, QUERY_DEVICE and UNKNOWN_REQUEST (R46, R155, R158–R160, R191). -/

namespace Sys2Proof.Machine

/-- An index as a byte. -/
def indexByte (i : RecordId) : Byte := BitVec.ofNat 8 i.val

/-- The fixed part of a QUERY_STREAM response (R46, R191). -/
def State.streamFixedPart (s : State) (k : StreamId) (st : Stream) : List Byte :=
  let t := s.tracker k
  let fallback := s.fallbackOf k
  let origin := match st.phase with | .closing o => some o.code | _ => none
  [BitVec.ofNat 8 k.val, st.phase.code, BitVec.ofNat 8 st.producer.val, boolByte st.producerPresent,
    st.policy.code, st.overflow.code, BitVec.ofNat 8 st.frameCount, BitVec.ofNat 8 st.consumerLimit] ++
  bytesOfNat 2 st.writeLease.toNat ++ bytesOfNat 2 st.readLease.toNat ++
  [boolByte st.fallbackPattern.isSome] ++ optionWord st.fallbackPattern ++
  [optionByte (fallback.map indexByte),
    optionByte ((fallback.bind fun i => (s.record i).condition).map FallbackCondition.code),
    boolByte st.cadence.enable, BitVec.ofNat 8 st.cadence.tolerance, BitVec.ofNat 8 st.cadence.lockCount,
    BitVec.ofNat 8 st.cadence.unlockCount, BitVec.ofNat 8 st.cadence.stallCount, t.state.code] ++
  optionBytes 4 t.interval ++
  bytesOfNat 4 st.nextSequence.toNat ++ bytesOfNat 4 st.published.toNat ++ bytesOfNat 4 st.dropped.toNat ++
  [boolByte st.producerWaiting, optionByte origin]

/-- The ready list of a QUERY_STREAM response: a count, then index and sequence of each record (R191). -/
def State.readyListBytes (s : State) (st : Stream) : List Byte :=
  BitVec.ofNat 8 st.ready.length :: st.ready.flatMap fun i =>
    indexByte i :: optionWord ((s.record i).stamp.map FrameStamp.sequence)

/-- The free list of a QUERY_STREAM response: a count, then the indexes (R191). -/
def freeListBytes (st : Stream) : List Byte :=
  BitVec.ofNat 8 st.free.length :: st.free.map indexByte

/-- A consumer entry of a QUERY_STREAM response (R191). -/
def Consumer.bytes (c : Consumer) : List Byte :=
  [BitVec.ofNat 8 c.port.val, BitVec.ofNat 8 c.holdLimit, boolByte c.repeatAllowed,
    presence 0 c.lastDelivered] ++ optionWord c.lastDelivered ++ bytesOfNat 2 c.skipped ++
    [BitVec.ofNat 8 c.readHolds]

/-- The consumer list of a QUERY_STREAM response: a count, then the entries (R191). -/
def consumerListBytes (st : Stream) : List Byte :=
  BitVec.ofNat 8 st.consumers.length :: st.consumers.flatMap Consumer.bytes

/-- The execution of QUERY_STREAM (R46). -/
def queryStreamRequest (p : Port) (f : RequestFrame) (_t : Time) (s : State) : State × Reply :=
  answer do
    checkSession p f s
    let (k, st) ← checkStream (f.field 0 1) (fun _ => true) s
    .ok (s, .ok (s.streamFixedPart k st ++ s.readyListBytes st ++ freeListBytes st ++ consumerListBytes st))

/-- QUERY_STREAM (R46). -/
def execQueryStream (p : Port) (s : State) : Outcome :=
  .next (s.runRequest p (some .queryStream) (queryStreamRequest p))

/-- A set that may be absent, as a byte (R189, R191). (DEDUCED, unsafe: log entry 9.) -/
def optionSet (x : Option PortSet) : Byte := optionByte (x.map PortSet.toByte)

/-- The role of a record, absent when it is UNASSIGNED (R1, R194). -/
def BufferRecord.roleCode (r : BufferRecord) : Option Byte :=
  match r.use with
  | .unassigned => none
  | .frame _ _ => some 0
  | .fallback _ _ _ => some 1

/-- The 29 bytes of a QUERY_BUFFER response (R158, R191). (DEDUCED, unsafe: log entry 9.) -/
def State.bufferBytes (s : State) (i : RecordId) : List Byte :=
  let r := s.record i
  let view := fillView s.engine r.fill
  [indexByte i, r.stateCode, r.generation, view.1, optionByte view.2,
    optionByte (r.assignment.map fun a => BitVec.ofNat 8 a.stream.val), optionByte r.roleCode] ++
  bytesOfNat 5 r.base.toNat ++ bytesOfNat 4 r.length.toNat ++
  [optionByte (r.writer.map fun p => BitVec.ofNat 8 p.val)] ++
  optionWord (r.stamp.map FrameStamp.sequence) ++ optionWord (r.stamp.map FrameStamp.publishTime) ++
  [optionSet r.pendingSet, optionSet r.holdSet, optionByte (r.condition.map FallbackCondition.code),
    flagBit 0 r.stamp.isSome ||| flagBit 1 r.pendingSet.isSome ||| flagBit 2 r.holdSet.isSome |||
      flagBit 3 r.assignment.isSome]

/-- The execution of QUERY_BUFFER (R158). -/
def queryBufferRequest (p : Port) (f : RequestFrame) (_t : Time) (s : State) : State × Reply :=
  answer do
    checkSession p f s
    if h : f.field 0 1 < 64 then
      .ok (s, .ok (s.bufferBytes ⟨f.field 0 1, h⟩))
    else .error (s, .refuse .badParameter)

/-- QUERY_BUFFER (R158). -/
def execQueryBuffer (p : Port) (s : State) : Outcome :=
  .next (s.runRequest p (some .queryBuffer) (queryBufferRequest p))

/-- The 14 bytes of a QUERY_DEVICE response (R159, R191). (DESIGN CHOICE, unsafe: log entry 4.) -/
def State.deviceBytes (s : State) : List Byte :=
  [Config.familyCode, Config.revision, 6, 16, 64, 128, 8,
    BitVec.ofNat 8 (allRecords.countP fun i => !(s.record i).isUnassigned),
    BitVec.ofNat 8 s.leases.length, s.engine.stateCode] ++ bytesOfNat 4 s.timebase.toNat

/-- The execution of QUERY_DEVICE (R159). -/
def queryDeviceRequest (p : Port) (f : RequestFrame) (_t : Time) (s : State) : State × Reply :=
  answer do
    checkSession p f s
    .ok (s, .ok s.deviceBytes)

/-- QUERY_DEVICE (R159). -/
def execQueryDevice (p : Port) (s : State) : Outcome :=
  .next (s.runRequest p (some .queryDevice) (queryDeviceRequest p))

/-- UNKNOWN_REQUEST: an unknown code, or a length not allowed for its code, is answered BAD_REQUEST (R155). -/
def execUnknownRequest (p : Port) (s : State) : Outcome :=
  .next (s.runRequest p none fun _ _ s => (s, .refuse .badRequest))

end Sys2Proof.Machine
end

