-- ==== Sys2Proof/Machine/Reports.lean ====
section
/-! DEFINITION. The internal reports the core takes: fill reports, lease expiries, cadence reports
(R103–R105, R127, R140, R141, R145). -/

namespace Sys2Proof.Machine

/-! ## FILL_REPORT_TAKEN -/

/-- The notice of a fill's outcome, with its detail; a CANCELLED job sends none (R141, R145, R148). -/
def fillNotice (r : FillReport) : Option (NoticeKind × BitVec 32) :=
  match r.outcome with
  | .done => some (.fillDone, r.tag.setWidth 32)
  | .failed cause offset => some (.fillFailed, failureDetail cause offset)
  | .cancelled => none

/-- Send the requester the notice of a fill's outcome (R141, R145). -/
def State.notifyFill (r : FillReport) (k : StreamId) (s : State) : State :=
  match fillNotice r with
  | none => s
  | some (kind, detail) => s.notify r.requester kind k (some detail)

/-- A FRAME_FILL report is applied by the record's state: SETTLING becomes FREE, WRITING stays and its
requester is told (R141). The fill is none already. -/
def State.applyFrameFill (r : FillReport) (k : StreamId) (s : State) : State :=
  if (s.record r.index).isSettling then s.becomeFree r.index k else s.notifyFill r k

/-- The fallback becomes VALID and its generation is raised (R4, R9). -/
def State.validateFallback (i : RecordId) (s : State) : State :=
  s.modRecord i fun r => (r.setCondition .valid).raise

/-- A FALLBACK_FILL report in a PREPARING stream (R30, R31, R145). A CANCELLED outcome does not arise.
(DESIGN CHOICE, unsafe: log entry 14.) -/
def State.applyOpenFill (r : FillReport) (k : StreamId) (st : Stream) (s : State) : State :=
  match r.outcome with
  | .done =>
    ((s.validateFallback r.index).modStream k fun st => { st with phase := .opened }).notify st.producer
      .streamReady k none
  | .failed cause offset =>
    ((s.modRecord r.index (BufferRecord.setCondition .invalid)).notify st.producer .openFailed k
      (some (failureDetail cause offset))).enterClosing k .failure
  | .cancelled => s

/-- A FALLBACK_FILL report in an OPEN or ORPHANED stream (R145). A CANCELLED outcome does not arise.
(DESIGN CHOICE, unsafe: log entry 14.) -/
def State.applyRefill (r : FillReport) (k : StreamId) (st : Stream) (s : State) : State :=
  let s := match r.outcome with
    | .done => s.validateFallback r.index
    | .failed _ _ => s.modRecord r.index (BufferRecord.setCondition .invalid)
    | .cancelled => s
  if r.requester = st.producer && st.producerPresent then s.notifyFill r k else s

/-- A FALLBACK_FILL report is applied by the state of the stream (R145). -/
def State.applyFallbackFill (r : FillReport) (k : StreamId) (s : State) : State :=
  match s.stream k with
  | none => s
  | some st =>
    match st.phase with
    | .preparing => s.applyOpenFill r k st
    | .opened | .orphaned => s.applyRefill r k st
    | .closing _ => s

/-- The outcome of a report whose job the record's fill names (R140). -/
def State.applyFill (r : FillReport) (k : StreamId) (s : State) : State :=
  let s := s.modRecord r.index (BufferRecord.setFill .noJob)
  match r.kind with
  | .frameFill => s.applyFrameFill r k
  | .fallbackFill => s.applyFallbackFill r k

/-- What the core does with a report it has taken: the outcome where the fill names the job, then the
completion check of the record's stream (R8, R37, R140). -/
def State.takeFillReport (r : FillReport) (s : State) : State :=
  match (s.record r.index).assignment with
  | none => s
  | some a =>
    let s := if (s.record r.index).fill.namesTag r.tag then s.applyFill r a.stream else s
    s.completionCheck a.stream

/-- FILL_REPORT_TAKEN (R140). The engine moved to its next job at the grant (R150). -/
def execFillReportTaken (s : State) : Outcome :=
  match s.core with
  | some { item := .fillReport r, takenAt := _ } => .next (s.takeFillReport r).finish
  | _ => .next s

/-! ## Lease expiries -/

/-- The reclamation of a WRITE entry: the write handle ends, from item 2 of R64 on (R103). -/
def State.reclaimWrite (e : LeaseEntry) (k : StreamId) (s : State) : State :=
  if (s.record e.index).writer = some e.port then s.endWriting e.index k else s

/-- WRITE_EXPIRY_TAKEN (R103, R105). The entry left the table at the grant (R150).
(DESIGN CHOICE, unsafe: log entry 14.) -/
def execWriteExpiryTaken (s : State) : Outcome :=
  match s.core with
  | some { item := .leaseExpiry e, takenAt := _ } =>
    match e.kind, (s.record e.index).assignment with
    | .write, some a => .next ((s.reclaimWrite e a.stream).recordExpiry e a.stream).finish
    | .write, none => .next s.finish
    | .read, _ => .next s
  | _ => .next s

/-- READ_EXPIRY_TAKEN (R104, R105). The entry left the table at the grant (R150).
(DESIGN CHOICE, unsafe: log entry 14.) -/
def execReadExpiryTaken (s : State) : Outcome :=
  match s.core with
  | some { item := .leaseExpiry e, takenAt := _ } =>
    match e.kind, (s.record e.index).assignment with
    | .read, some a =>
      .next (((s.endHold e.index e.port a.stream).completionCheck a.stream).recordExpiry e a.stream).finish
    | .read, none => .next s.finish
    | .write, _ => .next s
  | _ => .next s

/-! ## CADENCE_REPORT_TAKEN -/

/-- The recipients of cadence notices: the producer, then each consumer (R127). -/
def Stream.cadencePorts (st : Stream) : List Port := st.producer :: st.consumers.map Consumer.port

/-- The notices of a report taken at a time (R127). (DESIGN CHOICE, unsafe: log entry 4.) -/
def State.takeCadence (t : Time) (k : StreamId) (late : Nat) (change : Option StateChange)
    (interval : Option Nat) (s : State) : State :=
  match s.stream k with
  | none => s
  | some st => st.cadencePorts.foldl (fun s p => s.notifyCadence t k late change interval p) s

/-- CADENCE_REPORT_TAKEN (R127). The report was reset at the grant (R150). -/
def execCadenceReportTaken (k : StreamId) (s : State) : Outcome :=
  match s.core with
  | some { item := .cadenceReport j late change interval, takenAt := t } =>
    if j = k then .next (s.takeCadence t k late change interval).finish else .next s
  | _ => .next s

end Sys2Proof.Machine
end

