-- ==== Sys2Proof/Machine/Sessions.lean ====
section
/-! DEFINITION. ATTACH, DETACH, SET_NOTICE_MASK and the forced detach (spec 09). -/

namespace Sys2Proof.Machine

/-- Whether a mask turns on only selectors that name notice kinds other than OVERFLOW: bits 1 to 19
(R174, R191). -/
def maskInRange (m : BitVec 32) : Bool := decide (m &&& ~~~(0x000FFFFE : BitVec 32) = 0)

/-- Whether an enables byte names only its two bits (R174, R191). -/
def enablesInRange (e : Byte) : Bool := decide (e &&& ~~~(0x03 : Byte) = 0)

/-- The mask of an ATTACH or SET_NOTICE_MASK payload (R191). -/
def RequestFrame.mask (f : RequestFrame) : BitVec 32 := BitVec.ofNat 32 (f.field 0 4)

/-- The enables byte of an ATTACH or SET_NOTICE_MASK payload (R191). -/
def RequestFrame.enables (f : RequestFrame) : Byte := BitVec.ofNat 8 (f.field 4 1)

/-- Step 3 of ATTACH and SET_NOTICE_MASK (R174, R175). -/
def checkMask (f : RequestFrame) (s : State) : Checked Unit :=
  check (maskInRange f.mask && enablesInRange f.enables) .badParameter s

/-- Set the notice mask and the attention enables from a request (R174, R175). -/
def AgentPort.setMask (f : RequestFrame) (q : AgentPort) : AgentPort :=
  { q with
    mask := f.mask, responseAttention := f.enables.getLsbD 0, noticeAttention := f.enables.getLsbD 1 }

/-- The port state after an execution moves it to another state: a RESETTING port stays RESETTING (R178). -/
def PortState.moveTo (target : PortState) (x : PortState) : PortState :=
  if x = .resetting then .resetting else target

/-- ATTACH gives the port a new session (R174, R178). -/
def AgentPort.attach (f : RequestFrame) (q : AgentPort) : AgentPort :=
  { q.setMask f with
    session := nextSession q.session, inForce := true, state := PortState.moveTo .attached q.state }

/-- The execution of ATTACH (R155, R174). -/
def attachRequest (p : Port) (f : RequestFrame) (_t : Time) (s : State) : State × Reply :=
  answer do
    check (!(s.port p).inForce) .alreadyAttached s
    checkMask f s
    .ok (s.modPort p (AgentPort.attach f), .ok [nextSession (s.port p).session])

/-- ATTACH (R174). -/
def execAttach (p : Port) (s : State) : Outcome :=
  .next (s.runRequest p (some .attach) (attachRequest p))

/-- The execution of SET_NOTICE_MASK (R175). -/
def setNoticeMaskRequest (p : Port) (f : RequestFrame) (_t : Time) (s : State) : State × Reply :=
  answer do
    checkSession p f s
    checkMask f s
    .ok (s.modPort p (AgentPort.setMask f), .ok (bytesOfNat 4 f.mask.toNat ++ [f.enables]))

/-- SET_NOTICE_MASK (R175). -/
def execSetNoticeMask (p : Port) (s : State) : Outcome :=
  .next (s.runRequest p (some .setNoticeMask) (setNoticeMaskRequest p))

/-- DETACH ends the session of a port (R176, R178). -/
def AgentPort.detach (q : AgentPort) : AgentPort :=
  { q.endSession with state := PortState.moveTo .detached q.state }

/-- The execution of DETACH (R176). -/
def detachRequest (p : Port) (f : RequestFrame) (_t : Time) (s : State) : State × Reply :=
  answer do
    checkSession p f s
    .ok ((s.detachActions p).modPort p AgentPort.detach, .ok [(s.port p).session])

/-- DETACH (R176). -/
def execDetach (p : Port) (s : State) : Outcome :=
  .next (s.runRequest p (some .detach) (detachRequest p))

/-- The end of a forced detach at the port: DETACHED, its request slot EMPTY (R179). -/
def AgentPort.endForcedDetach (q : AgentPort) : AgentPort :=
  { q.endSession with request := .empty, state := .detached }

/-- What a forced detach does before the core becomes free (R179). -/
def State.forceDetach (p : Port) (s : State) : State :=
  (if (s.port p).inForce then s.detachActions p else s.clearExpired p).modPort p AgentPort.endForcedDetach

/-- FORCED_DETACH (R179): takes place when the core has taken the port's forced detach. -/
def execForcedDetach (p : Port) (s : State) : Outcome :=
  match s.core with
  | some { item := .forcedDetach q, takenAt := _ } =>
    if q = p then .next (s.forceDetach p).finish else .next s
  | _ => .next s

end Sys2Proof.Machine
end

