-- ==== Sys2Proof/Machine/Streams.lean ====
section
/-! DEFINITION. OPEN_STREAM, CLOSE_STREAM, JOIN and LEAVE (spec 01, 02). -/

namespace Sys2Proof.Machine

/-! ## OPEN_STREAM -/

/-- A region of buffer memory: a base and a length in bytes (R16, R17). -/
structure Region where
  base : Nat
  length : Nat
deriving DecidableEq, Repr

/-- Two regions overlap when each begins before the other ends (R16). -/
def Region.overlaps (x y : Region) : Bool :=
  decide (x.base < y.base + y.length) && decide (y.base < x.base + x.length)

/-- The conditions on a buffer descriptor (R17). -/
def Region.inBounds (x : Region) : Bool :=
  decide (x.base % 256 = 0) && decide (x.length % 256 = 0) && decide (Config.minLength ≤ x.length) &&
    decide (x.length ≤ Config.maxLength) && decide (x.base + x.length ≤ Config.addressTop)

/-- The region of an assigned record (R16). -/
def BufferRecord.region (r : BufferRecord) : Option Region :=
  r.assignment.map fun a => { base := a.base.toNat, length := a.length.toNat }

/-- The regions of all assigned records: the region map (R16). -/
def State.regionMap (s : State) : List Region := allRecords.filterMap fun i => (s.record i).region

/-- The number of the first descriptor that overlaps a region taken before it (R18). -/
def firstConflict (taken : List Region) : List Region → Nat → Option Nat
  | [], _ => none
  | d :: ds, j => if taken.any d.overlaps then some j else firstConflict (d :: taken) ds (j + 1)

/-- A descriptor of an OPEN_STREAM payload (R191). -/
def RequestFrame.descriptor (f : RequestFrame) (j : Nat) : Region :=
  { base := f.field (18 + 10 * j) 6, length := f.field (24 + 10 * j) 4 }

/-- The descriptors of an OPEN_STREAM payload, in number order (R17, R27). -/
def RequestFrame.descriptors (f : RequestFrame) : List Region :=
  (List.range ((f.payload.length - 18) / 10)).map f.descriptor

/-- Frame buffers n that an OPEN_STREAM asks for (R191). -/
def RequestFrame.frameCount (f : RequestFrame) : Nat := f.field 2 1

/-- Whether an OPEN_STREAM asks for a fallback (R191). -/
def RequestFrame.hasFallback (f : RequestFrame) : Bool := decide (f.field 3 1 = 1)

/-- Records an OPEN_STREAM needs: n, and one for the fallback (R17, R28). -/
def RequestFrame.recordCount (f : RequestFrame) : Nat :=
  f.frameCount + if f.hasFallback then 1 else 0

/-- Whether a value lies in a range, both ends included. -/
def within (lo hi n : Nat) : Bool := decide (lo ≤ n) && decide (n ≤ hi)

/-- Whether the stream parameters of an OPEN_STREAM are in range (R27, R189). -/
def RequestFrame.parametersInRange (f : RequestFrame) : Bool :=
  within 0 1 (f.field 0 1) && within 0 1 (f.field 1 1) && !(f.field 0 1 = 1 && f.field 1 1 = 1) &&
    within 0 1 (f.field 3 1) && !(f.field 0 1 = 0 && f.field 3 1 = 1) && within 2 8 (f.field 2 1) &&
    within 1 4 (f.field 4 1) && within 0 1 (f.field 9 1) && within 1 16 (f.field 10 1) &&
    within 2 15 (f.field 11 1) && within 1 15 (f.field 12 1) && within 1 15 (f.field 13 1) &&
    decide (f.descriptors.length = f.recordCount)

/-- The cadence parameters of an OPEN_STREAM (R191). -/
def RequestFrame.cadence (f : RequestFrame) : CadenceParams :=
  { enable := decide (f.field 9 1 = 1), tolerance := f.field 10 1, lockCount := f.field 11 1,
    unlockCount := f.field 12 1, stallCount := f.field 13 1 }

/-- The UNASSIGNED records, in increasing index (R29). -/
def State.unassigned (s : State) : List RecordId := allRecords.filter fun i => (s.record i).isUnassigned

/-- A check of a descriptor that carries its number in the answer (R157). -/
def checkDescriptor (failing : Option Nat) (r : Result) (s : State) : Checked Unit :=
  match failing with
  | none => .ok ()
  | some j => .error (s, { result := r, payload := [BitVec.ofNat 8 j] })

/-- The new stream of an OPEN_STREAM (R29, item 3). -/
def RequestFrame.newStream (f : RequestFrame) (p : Port) (free : List RecordId) : Stream :=
  { phase := if f.hasFallback then .preparing else .opened
    producer := p
    producerPresent := true
    policy := if f.field 0 1 = 0 then .queue else .latest
    overflow := if f.field 1 1 = 0 then .block else .dropOldest
    frameCount := f.frameCount
    fallbackPattern := if f.hasFallback then some (BitVec.ofNat 32 (f.field 14 4)) else none
    consumerLimit := f.field 4 1
    writeLease := BitVec.ofNat 16 (f.field 5 2)
    readLease := BitVec.ofNat 16 (f.field 7 2)
    cadence := f.cadence
    nextSequence := 1
    ready := []
    free := free
    consumers := []
    producerWaiting := false
    published := 0
    dropped := 0 }

/-- What an assigned record takes from its descriptor (R5). -/
def Region.assign (k : StreamId) (d : Region) : Assignment :=
  { stream := k, base := BitVec.ofNat 40 d.base, length := BitVec.ofNat 32 d.length }

/-- A record is assigned as a frame buffer (R5). -/
def State.assignFrame (k : StreamId) (x : RecordId × Region) (s : State) : State :=
  s.modRecord x.1 fun r => { r with fill := .noJob, use := .frame (x.2.assign k) .free }

/-- A record is assigned as the fallback, and its fill is submitted (R5, R29 item 5). -/
def State.assignFallback (k : StreamId) (p : Port) (pattern : BitVec 32) (x : RecordId × Region)
    (s : State) : State :=
  let s := s.modRecord x.1 fun r => { r with use := .fallback (x.2.assign k) PortSet.empty .filling }
  s.submitFill (fallbackOrder x.1 (s.record x.1) p pattern)

/-- The execution of an OPEN_STREAM whose checks passed (R29). -/
def State.openStream (p : Port) (f : RequestFrame) (k : StreamId) (s : State) : State :=
  let pairs := s.unassigned.zip f.descriptors
  let frames := pairs.take f.frameCount
  let s := frames.foldl (fun s x => s.assignFrame k x) s
  let s := s.setStream k (some (f.newStream p (frames.map Prod.fst)))
  let s := s.setTracker k (Tracker.cleared f.cadence)
  if f.hasFallback then
    match pairs.drop f.frameCount with
    | x :: _ => s.assignFallback k p (BitVec.ofNat 32 (f.field 14 4)) x
    | [] => s
  else s

/-- The execution of OPEN_STREAM, checks in the order of R28. -/
def openStreamRequest (p : Port) (f : RequestFrame) (_t : Time) (s : State) : State × Reply :=
  answer do
    checkSession p f s
    check f.parametersInRange .badParameter s
    checkDescriptor (f.descriptors.findIdx? fun d => !d.inBounds) .badDescriptor s
    checkDescriptor (firstConflict s.regionMap f.descriptors 0) .regionConflict s
    check (decide (s.producerCount p < Config.producerRoles)) .roleLimit s
    match allStreams.find? fun k => (s.stream k).isNone with
    | none => .error (s, .refuse .noStream)
    | some k =>
      check (decide (f.recordCount ≤ s.unassigned.length)) .noRecords s
      check (!f.hasFallback || !s.engine.isFull) .fillQueueFull s
      let s' := s.openStream p f k
      .ok (s', .ok ([BitVec.ofNat 8 k.val, s'.streamCode k, BitVec.ofNat 8 f.recordCount] ++
        (s.unassigned.take f.recordCount).map fun i => BitVec.ofNat 8 i.val))

/-- OPEN_STREAM (R29). -/
def execOpenStream (p : Port) (s : State) : Outcome :=
  .next (s.runRequest p (some .openStream) (openStreamRequest p))

/-! ## CLOSE_STREAM -/

/-- The execution of CLOSE_STREAM (R32). -/
def closeStreamRequest (p : Port) (f : RequestFrame) (_t : Time) (s : State) : State × Reply :=
  answer do
    checkSession p f s
    let (k, st) ← checkStream (f.field 0 1) admitsJoin s
    check (decide (st.producer = p)) .notProducer s
    let s' := s.enterClosing k .request
    .ok (s', .ok [s'.streamCode k])

/-- CLOSE_STREAM (R32). -/
def execCloseStream (p : Port) (s : State) : Outcome :=
  .next (s.runRequest p (some .closeStream) (closeStreamRequest p))

/-! ## JOIN -/

/-- The new consumer entry of a JOIN (R41, R42, R43). -/
def RequestFrame.newConsumer (f : RequestFrame) (p : Port) (st : Stream) (s : State) : Consumer :=
  { port := p
    holdLimit := match st.policy with | .queue => f.field 2 1 | .latest => 1
    repeatAllowed := match st.policy with | .queue => false | .latest => decide (f.field 3 1 = 1)
    lastDelivered := match st.policy with
      | .queue => none
      | .latest =>
        if f.field 1 1 = 0 then
          (st.ready.head?.bind fun i => (s.record i).stamp).map FrameStamp.sequence
        else none
    skipped := 0
    readHolds := 0 }

/-- Start OLDEST in a QUEUE stream: the port joins the pending set of every ready record (R42). -/
def State.oweReady (p : Port) (st : Stream) (s : State) : State :=
  st.ready.foldl (fun s i => s.modRecord i (BufferRecord.mapPending fun x => x.add p)) s

/-- The execution of a JOIN whose checks passed (R41). -/
def State.joinStream (p : Port) (f : RequestFrame) (k : StreamId) (st : Stream) (s : State) : State :=
  let c := f.newConsumer p st s
  let s := s.setStream k (some { st with consumers := st.consumers ++ [c] })
  let s := if st.policy = .queue && f.field 1 1 = 1 then s.oweReady p st else s
  s.notify st.producer .consumerJoined k (some (portDetail p))

/-- Ready-list records whose pending set contains a port (R41). -/
def State.owedCount (s : State) (p : Port) (st : Stream) : Nat :=
  st.ready.countP fun i => (s.record i).owedTo p

/-- The execution of JOIN (R40, R41). -/
def joinRequest (p : Port) (f : RequestFrame) (_t : Time) (s : State) : State × Reply :=
  answer do
    checkSession p f s
    check (within 0 1 (f.field 1 1) && within 1 4 (f.field 2 1) && within 0 1 (f.field 3 1)) .badParameter s
    let (k, st) ← checkStream (f.field 0 1) admitsJoin s
    check (decide (st.producer ≠ p)) .roleConflict s
    check (!st.hasConsumer p) .alreadyMember s
    check (decide (st.consumers.length < st.consumerLimit)) .memberLimit s
    check (decide (s.consumerCount p < Config.consumerRoles)) .roleLimit s
    check (decide (st.policy = .queue) || decide (st.consumers.length + 3 ≤ st.frameCount)) .noCapacity s
    let s' := s.joinStream p f k st
    .ok (s', .ok [st.policy.code, BitVec.ofNat 8 (f.newConsumer p st s).holdLimit,
      BitVec.ofNat 8 (match st.policy with | .queue => s'.owedCount p st | .latest => 0)])

/-- JOIN (R41). -/
def execJoin (p : Port) (s : State) : Outcome := .next (s.runRequest p (some .join) (joinRequest p))

/-! ## LEAVE -/

/-- The execution of LEAVE (R45). -/
def leaveRequest (p : Port) (f : RequestFrame) (_t : Time) (s : State) : State × Reply :=
  answer do
    checkSession p f s
    let (k, st) ← checkStream (f.field 0 1) admitsLeave s
    check (st.hasConsumer p) .notMember s
    .ok (s.depart p k, .ok [BitVec.ofNat 8 (s.heldIn p k).length])

/-- LEAVE (R45). -/
def execLeave (p : Port) (s : State) : Outcome := .next (s.runRequest p (some .leave) (leaveRequest p))

end Sys2Proof.Machine
end

