-- ==== Sys2Proof/Machine/Dispatch.lean ====
section
/-! DEFINITION. One arm per command. -/

namespace Sys2Proof.Machine

def exec (i : Instr) (s : State) : Host.Outcome State Fault Refusal :=
  match i with
  | .submit p edge => Sys2Proof.Machine.execSubmit p edge s
  | .collect p edge => Sys2Proof.Machine.execCollect p edge s
  | .status p edge => Sys2Proof.Machine.execStatus p edge s
  | .notice p edge => Sys2Proof.Machine.execNotice p edge s
  | .portReset p edge => Sys2Proof.Machine.execPortReset p edge s
  | .unknownTransaction p code edge => Sys2Proof.Machine.execUnknownTransaction p code edge s
  | .attach p => Sys2Proof.Machine.execAttach p s
  | .detach p => Sys2Proof.Machine.execDetach p s
  | .setNoticeMask p => Sys2Proof.Machine.execSetNoticeMask p s
  | .openStream p => Sys2Proof.Machine.execOpenStream p s
  | .closeStream p => Sys2Proof.Machine.execCloseStream p s
  | .join p => Sys2Proof.Machine.execJoin p s
  | .leave p => Sys2Proof.Machine.execLeave p s
  | .acquireWrite p => Sys2Proof.Machine.execAcquireWrite p s
  | .publish p => Sys2Proof.Machine.execPublish p s
  | .discard p => Sys2Proof.Machine.execDiscard p s
  | .fill p => Sys2Proof.Machine.execFill p s
  | .refillFallback p => Sys2Proof.Machine.execRefillFallback p s
  | .acquireRead p => Sys2Proof.Machine.execAcquireRead p s
  | .release p => Sys2Proof.Machine.execRelease p s
  | .renew p => Sys2Proof.Machine.execRenew p s
  | .queryStream p => Sys2Proof.Machine.execQueryStream p s
  | .queryBuffer p => Sys2Proof.Machine.execQueryBuffer p s
  | .queryDevice p => Sys2Proof.Machine.execQueryDevice p s
  | .unknownRequest p => Sys2Proof.Machine.execUnknownRequest p s
  | .forcedDetach p => Sys2Proof.Machine.execForcedDetach p s
  | .fillReportTaken => Sys2Proof.Machine.execFillReportTaken s
  | .writeExpiryTaken => Sys2Proof.Machine.execWriteExpiryTaken s
  | .readExpiryTaken => Sys2Proof.Machine.execReadExpiryTaken s
  | .cadenceReportTaken k => Sys2Proof.Machine.execCadenceReportTaken k s
  | .leaseDeadlineReached => Sys2Proof.Machine.execLeaseDeadlineReached s
  | .watchDeadlineReached k => Sys2Proof.Machine.execWatchDeadlineReached k s
  | .fillResponse tag error => Sys2Proof.Machine.execFillResponse tag error s
  | .burstTimeout => Sys2Proof.Machine.execBurstTimeout s
  | .quietEnd => Sys2Proof.Machine.execQuietEnd s
  | .deviceReset => Sys2Proof.Machine.execDeviceReset s
  | .initEnd => Sys2Proof.Machine.execInitEnd s
  | .burstAccepted => Sys2Proof.Machine.execBurstAccepted s
  | .resetRelease => Sys2Proof.Machine.execResetRelease s

end Sys2Proof.Machine
end

