-- ==== Sys2Proof/Machine/Step.lean ====
section
/-! DEFINITION. The step: take the command at the front of the queue and run it; on an empty queue a
microsecond passes. -/

namespace Sys2Proof.Machine

/-- One step of the machine. (DESIGN CHOICE, unsafe: log entry 2.) -/
def step (s : State) : Host.Outcome State Fault Refusal :=
  match s.pending with
  | [] => .next s.idle
  | c :: rest => exec c (s.setPending rest)

/-- The state with the command a word spells put at the front of its queue: unchanged, for no word spells
a command. (DESIGN CHOICE, unsafe: log entry 6.) -/
def State.withFetchWord (s : State) (nbits w : Nat) : State :=
  match decodeTableWord nbits w with
  | none => s
  | some c => s.setPending (c :: s.pending)

end Sys2Proof.Machine
end

