-- ==== Sys2Proof/Safety.lean ====
section
/-! DEFINITION. The words in which statements speak of the machine: a request under execution and its end,
what an agent clocks out, and the invariants that every step keeps. -/

namespace Sys2Proof.Machine

/-! ## A request under execution -/

/-- The core is executing frame `f` of the request slot of `p`, granted at `t` (R150, R167). -/
abbrev State.Executes (s : State) (p : Port) (f : RequestFrame) (t : Time) : Prop :=
  s.core = some { item := .request p, takenAt := t } ∧ (s.port p).request = .taken (.request f)

/-- Step 2 of the common check order passes for a request other than ATTACH (R155). -/
abbrev State.InSession (s : State) (p : Port) (f : RequestFrame) : Prop :=
  (s.port p).inForce = true ∧ f.session = (s.port p).session

/-- The end of a request's execution, up to the arbiter's next choice (R150, R178): the response slot is
FULL and the request slot EMPTY, or, at a RESETTING port, the response is discarded and the forced detach
takes the slot; the core is free. -/
def State.respond (p : Port) (f : RequestFrame) (result : Result) (payload : List Byte) (s : State) : State :=
  (s.setPort p
    (if (s.port p).state = .resetting then { s.port p with request := .held .forcedDetach }
     else { s.port p with
            request := .empty
            response := some { result := result, code := f.code, payload := payload } })).setCore none

/-- A transaction can begin on a port: RESETn is released, select fell after the release, and no transaction is
under way (R165, R168). -/
abbrev State.PortReady (s : State) (p : Port) : Prop :=
  s.resetAsserted = false ∧ (s.port p).select = .low ∧ (s.port p).transaction = none

/-- The first `n` bytes clocked out of a copy; bytes beyond its end read as zero (R168). -/
def clockedOut (copy : List Byte) (n : Nat) : List Byte := (List.range n).map fun j => copy.getD j 0

/-- The header and payload bytes of a request frame (R170, R189). -/
def frameBody (code session : Byte) (payload : List Byte) : List Byte :=
  [code, session, BitVec.ofNat 8 payload.length] ++ payload

/-- No record of a stream is WRITING (R47). -/
abbrev State.NoWriter (s : State) (k : StreamId) : Prop :=
  ∀ i, (s.record i).names k = true → (s.record i).writer = none

/-- The lease table has room for the entry that a lease of so many units asks for (R98). -/
abbrev State.LeaseRoom (s : State) (units : BitVec 16) : Prop := units = 0 ∨ s.leases.length < 128

/-! ## Invariants -/

/-- The capacities of the part: 128 lease entries (R95), 8 jobs (R131), and for each port 31 ordinary notices
and one OVERFLOW (R181) and 8 expired handles (R106). -/
def State.WithinCapacities (s : State) : Prop :=
  s.leases.length ≤ 128 ∧ s.engine.jobs.length ≤ 8 ∧
    ∀ p, ((s.port p).notices.countP fun n => n.kind ≠ .overflow) ≤ 31 ∧
      ((s.port p).notices.countP fun n => n.kind = .overflow) ≤ 1 ∧ (s.port p).expired.length ≤ 8

/-- The regions of assigned records do not overlap (R16). -/
def State.RegionsDisjoint (s : State) : Prop :=
  ∀ i j, i ≠ j → ∀ x y, (s.record i).region = some x → (s.record j).region = some y → x.overlaps y = false

/-- The engine's state, its queue and its report agree, and no two jobs share a tag (R131, R132, R138). -/
def FillEngine.Coherent (e : FillEngine) : Prop :=
  (e.jobs.map FillJob.tag).Nodup ∧ e.jobs.length ≤ 8 ∧
    match e.state with
    | .quiet => True
    | .standby => e.jobs = []
    | .running b => ∃ j js, e.jobs = j :: js ∧ b.address = j.next
    | .reporting r => ∃ j js, e.jobs = j :: js ∧ r.tag = j.tag ∧ r.index = j.index ∧ r.kind = j.kind

/-- No port whose request slot is in use has a FULL response slot, and while an accepted frame is shifted in
both slots are EMPTY (R167, R169). -/
def State.SlotsExclusive (s : State) : Prop :=
  ∀ p, ((s.port p).request ≠ .empty → (s.port p).response = none) ∧
    ((s.port p).transaction = some (.submit true) →
      (s.port p).request = .empty ∧ (s.port p).response = none)

/-- A session is in force in ATTACHED and not in INIT or DETACHED, and its number is not 0 (R165, R174). -/
def State.SessionsLegal (s : State) : Prop :=
  ∀ p, ((s.port p).state = .attached → (s.port p).inForce = true) ∧
    ((s.port p).state = .init ∨ (s.port p).state = .detached → (s.port p).inForce = false) ∧
    ((s.port p).inForce = true → (s.port p).session ≠ 0)

/-- The arbiter leaves nothing waiting at a free core: once every port has left INIT, a free core means that
no item is presented (R151, R163). -/
def State.ArbiterSettled (s : State) : Prop :=
  s.core = none → (∀ p, (s.port p).state ≠ .init) → s.chosenItem = none

end Sys2Proof.Machine
end

