-- ==== Sys2Proof/Certificates/Slice0/Obligations.lean ====
section
/-! DEFINITION. The statements for the provers. Each is about every state that meets its hypotheses, reached
or not. An event that ends an execution or presents an item includes the arbiter's next choice (R151):
`exec c s = .next u.arbitrate` gives the state `u` before that choice, and `ArbiterChoosesInOrder` and
`RoundRobinServesPorts` say what the choice changes. -/

section Slice0Obligations

open Sys2Proof Sys2Proof.Machine

/-! ## The queue and time -/

/-- A step takes the command at the front of the queue and runs it on the state with the queue's rest. -/
def Obligations.StepRunsTheFrontCommand : Prop :=
  ∀ (c : Instr) (rest : List Instr) (s : State), s.pending = c :: rest →
    step s = exec c { s with pending := rest }

/-- On an empty queue a microsecond passes and the block's own due events join the queue, each once and nothing
else (the model's choice, log entry 2; the counting is R161's). The command of a request whose slot is not TAKEN
is the model's choice too (log entry 14). -/
def Obligations.IdleStepPassesAMicrosecond : Prop :=
  ∀ s : State, s.pending = [] → ∃ q : List Instr,
    step s = .next { s with
      timebase := if s.resetAsserted then s.timebase else s.timebase + 1, pending := q } ∧ q.Nodup ∧
    ∀ t : Time, t = (if s.resetAsserted then s.timebase else s.timebase + 1) → ∀ c : Instr, c ∈ q ↔
      (c = .initEnd ∧ s.resetAsserted = false ∧ ∃ p, (s.port p).state = .init) ∨
      (c = .quietEnd ∧ s.engine.state = .quiet ∧ s.resetAsserted = false ∧ (t - 1000).toNat < 2 ^ 31) ∨
      (c = .burstTimeout ∧ ∃ b, s.engine.state = .running b ∧ (t - (b.issuedAt + 64)).toNat < 2 ^ 31) ∨
      (c = .leaseDeadlineReached ∧ (∀ e ∈ s.leases, e.marked = false) ∧
        ∃ e rest, s.leases = e :: rest ∧ (t - e.deadline).toNat < 2 ^ 31) ∨
      (∃ k d, c = .watchDeadlineReached k ∧ (s.tracker k).state = .locked ∧ (s.tracker k).watch = some d ∧
        (t - d).toNat < 2 ^ 31) ∨
      ∃ x, s.core = some x ∧ c =
        match x.item with
        | .request p =>
          (match (s.port p).request with
            | .taken (.request f) => f.command p
            | _ => .unknownRequest p)
        | .forcedDetach p => .forcedDetach p
        | .fillReport _ => .fillReportTaken
        | .leaseExpiry e => (match e.kind with | .write => .writeExpiryTaken | .read => .readExpiryTaken)
        | .cadenceReport k _ _ _ => .cadenceReportTaken k

/-- Every command runs to a next state, in every state, and leaves the queue to the step.
That no command faults or is refused, and that a command whose event cannot take place still answers a next state,
are the model's choices (log entries 18 and 1). -/
def Obligations.EveryCommandCompletes : Prop :=
  ∀ (c : Instr) (s : State), ∃ u, exec c s = .next u ∧ u.pending = s.pending

/-! ## Reset -/

/-- DEVICE_RESET gives every part of the machine its reset value, from any state: all that is left of the state
before are the queue and the levels of the select lines, a low line being held until it rises.
The values are those of R2, R21, R95, R106, R113, R132, R152, R161 and R165; that they are written at once, that
RESETn is then still asserted, and the beats and SDO bytes after reset, are the model's choices (log entries 6, 11
and 12). -/
def Obligations.DeviceResetClearsTheDevice : Prop :=
  ∀ s : State, ∃ u, exec .deviceReset s = .next u ∧
    (∀ i, u.record i = { generation := 0, fill := .noJob, use := .unassigned }) ∧
    (∀ k, u.stream k = none) ∧ u.leases = [] ∧
    (∀ k, u.tracker k =
      { state := .idle
        params := { enable := false, tolerance := 1, lockCount := 2, unlockCount := 1, stallCount := 1 }
        interval := none, lastPublish := none, lockCounter := 0, unlockCounter := 0, missCounter := 0
        watch := none, late := 0, change := none }) ∧
    u.engine = { state := .quiet, jobs := [], tagCounter := 0, burstCounter := 0 } ∧
    (∀ p, u.port p =
      { state := .init, inForce := false, session := 0, request := .empty, response := none, mask := 0
        responseAttention := false, noticeAttention := false, rejected := false, frameError := false
        notices := [], expired := [], select := if (s.port p).select = .high then .high else .held
        transaction := none, sdo := [] } ∧ (u.port p).attn = false) ∧
    u.core = none ∧ u.pointer = 0 ∧ u.timebase = 0 ∧ u.resetAsserted = true ∧ u.fillBeats = none ∧
    u.pending = s.pending

/-- RESET_RELEASE starts the timebase from 0 and clears the core's tables; INIT_END then takes every port in INIT
to DETACHED, after which the arbiter grants. Where its event cannot take place, neither does anything. A select line
that falls before the release is held across it: until it rises, no code byte and no rising edge of it has any
other effect. One that falls after the release may start a transaction.
When the tables are written, that a command in another state does nothing, and the bytes on SDO are the model's
choices (log entries 1, 6 and 12); the edges of select are its reading (log entry 5). -/
def Obligations.ReleaseAndInitStartTheDevice : Prop :=
  ∀ s : State,
    (s.resetAsserted = true → ∃ u, exec .resetRelease s = .next u ∧
      u.resetAsserted = false ∧ u.timebase = 0 ∧
      (∀ i, u.record i = { generation := 0, fill := .noJob, use := .unassigned }) ∧
      (∀ k, u.stream k = none) ∧ u.leases = [] ∧
      (∀ p, u.port p = { s.port p with expired := [] }) ∧
      u = { u with trackers := s.trackers, engine := s.engine, core := s.core, pointer := s.pointer,
                   fillBeats := s.fillBeats, pending := s.pending }) ∧
    (s.resetAsserted = false → exec .resetRelease s = .next s) ∧
    (s.resetAsserted = false → (∃ p, (s.port p).state = .init) →
      ∃ u : State, exec .initEnd s = .next u.arbitrate ∧
        (∀ p, u.port p =
          if (s.port p).state = .init then { s.port p with state := .detached } else s.port p) ∧
        u = { s with ports := u.ports }) ∧
    (s.resetAsserted = true ∨ (∀ p, (s.port p).state ≠ .init) → exec .initEnd s = .next s) ∧
    (∀ (p : Port) (code : Option Byte) (c : Instr), c ∈ ([.submit p .fall, .collect p .fall, .status p .fall,
        .notice p .fall, .portReset p .fall, .unknownTransaction p code .fall] : List Instr) →
      ((s.port p).select = .high → exec c s = .next (s.setPort p { s.port p with
        select := if s.resetAsserted then .held else .low, sdo := [] })) ∧
      ((s.port p).select ≠ .high → exec c s = .next s)) ∧
    (∀ p : Port, (s.port p).select = .held → (s.port p).transaction = none →
      (∀ c ∈ ([.submit p .code, .collect p .code, .status p .code, .notice p .code] : List Instr),
        exec c s = .next s) ∧
      (∀ (bytes : List Byte) (n : Nat) (code : Byte), code ∉ [0x5A, 0xC3, 0x3C, 0xA5, 0x96] →
        ∀ c ∈ ([.submit p (.rise bytes), .collect p (.rise n), .status p (.rise n), .notice p (.rise n),
          .portReset p (.rise n), .unknownTransaction p none (.rise n),
          .unknownTransaction p (some code) (.rise n)] : List Instr),
        exec c s = .next (s.setPort p { s.port p with select := .high })))

/-! ## Transactions -/

/-- SUBMIT: the decision at the end of the code byte; at the rising edge of select a refused frame sets
REJECTED, an accepted frame of the right length and CRC is HELD and presented, any other is answered BAD_FRAME.
The edges and the bytes on SDO are the model's reading (log entries 5 and 12). -/
def Obligations.SubmitAcceptsChecksAndHolds : Prop :=
  ∀ (s : State) (p : Port),
    (s.PortReady p → exec (.submit p .code) s = .next (s.setPort p { s.port p with
      sdo := [0x00]
      transaction := some (.submit (decide
        (((s.port p).state = .detached ∨ (s.port p).state = .attached) ∧
          (s.port p).request = .empty ∧ (s.port p).response = none))) })) ∧
    (∀ bytes, (s.port p).transaction = some (.submit false) →
      exec (.submit p (.rise bytes)) s = .next (s.setPort p { s.port p with
        select := .high, transaction := none, sdo := List.replicate (bytes.length + 1) 0
        rejected := true }).arbitrate) ∧
    (∀ code session payload, payload.length ≤ 112 → (s.port p).transaction = some (.submit true) →
      exec (.submit p (.rise (withCrc (frameBody code session payload)))) s = .next (s.setPort p { s.port p with
        select := .high, transaction := none, sdo := List.replicate (payload.length + 6) 0
        request := .held (.request { code := code, session := session, payload := payload }) }).arbitrate) ∧
    (∀ bytes, (s.port p).transaction = some (.submit true) →
      (∀ code session payload, payload.length ≤ 112 → bytes ≠ withCrc (frameBody code session payload)) →
      exec (.submit p (.rise bytes)) s = .next (s.setPort p { s.port p with
        select := .high, transaction := none, sdo := List.replicate (bytes.length + 1) 0, frameError := true
        response := some { result := .badFrame, code := bytes.headD 0, payload := [] } }).arbitrate)

/-- COLLECT shifts out a copy of the response slot, or the EMPTY frame, and empties a FULL slot only when the
whole copy was clocked out.
The edges and the bytes on SDO are the model's reading (log entries 5 and 12). -/
def Obligations.CollectEmptiesTheSlotWhenWhole : Prop :=
  ∀ (s : State) (p : Port),
    (s.PortReady p → exec (.collect p .code) s = .next (s.setPort p { s.port p with
      sdo := [0x00]
      transaction := match (s.port p).response with
        | none => some (.collect (withCrc [0x01, 0x00, 0x00]) false)
        | some r => some (.collect
            (withCrc ([r.result.code, r.code, BitVec.ofNat 8 r.payload.length] ++ r.payload)) true) })) ∧
    (∀ copy full n, (s.port p).transaction = some (.collect copy full) →
      exec (.collect p (.rise n)) s = .next (s.setPort p { s.port p with
        select := .high, transaction := none, sdo := 0x00 :: clockedOut copy n
        response := if full = true ∧ copy.length ≤ n then none else (s.port p).response }))

/-- STATUS shifts out the port status word and clears the latches it showed set when all of it was clocked out.
The edges and the bytes on SDO are the model's reading (log entries 5 and 12). -/
def Obligations.StatusShowsThePortAndClearsLatches : Prop :=
  ∀ (s : State) (p : Port),
    (s.PortReady p → ∃ b0 : Byte,
      exec (.status p .code) s = .next (s.setPort p { s.port p with
        sdo := [0x00]
        transaction := some (.status
          [b0, (s.port p).session, BitVec.ofNat 8 (s.port p).notices.length, BitVec.ofNat 8 p.val]
          (s.port p).rejected (s.port p).frameError) }) ∧
      b0.toNat = (match (s.port p).state with | .init => 0 | .detached => 1 | .attached => 2 | .resetting => 3) +
        4 * (match (s.port p).request with | .empty => 0 | .held _ => 1 | .taken _ => 2) +
        16 * (s.port p).response.isSome.toNat + 32 * (s.port p).inForce.toNat +
        64 * (s.port p).rejected.toNat + 128 * (s.port p).frameError.toNat) ∧
    (∀ copy r e n, (s.port p).transaction = some (.status copy r e) →
      exec (.status p (.rise n)) s = .next (s.setPort p { s.port p with
        select := .high, transaction := none, sdo := 0x00 :: clockedOut copy n
        rejected := if r = true ∧ copy.length ≤ n then false else (s.port p).rejected
        frameError := if e = true ∧ copy.length ≤ n then false else (s.port p).frameError }))

/-- NOTICE copies the head record or NONE; a whole copy of a head with tally 0 removes it, one with a tally
above 0 leaves it with the tally as its count.
The edges and the bytes on SDO are the model's reading (log entries 5 and 12). -/
def Obligations.NoticePopsOrKeepsTheHead : Prop :=
  ∀ (s : State) (p : Port),
    (s.PortReady p → exec (.notice p .code) s = .next (s.setPort p { s.port p with
      sdo := [0x00]
      transaction := match (s.port p).notices with
        | [] => some (.notice (withCrc [0x00, 0xFF, 0, 0, 0, 0, 0, 0, 0, 0, 0, 0]) false 0 0)
        | n :: _ => some (.notice (withCrc
            ([n.kind.code, (match n.stream with | none => 0xFF | some k => BitVec.ofNat 8 k.val),
                BitVec.ofNat 8 n.count, (match n.detail with | none => 0 | some _ => 1)] ++
              bytesOfNat 4 n.time.toNat ++ bytesOfNat 4 ((n.detail.getD 0).toNat))) true 0 0) })) ∧
    (∀ copy transfer tally sum n, (s.port p).transaction = some (.notice copy transfer tally sum) →
      exec (.notice p (.rise n)) s = .next (s.setPort p { s.port p with
        select := .high, transaction := none, sdo := 0x00 :: clockedOut copy n
        notices :=
          if transfer = true ∧ copy.length ≤ n then
            match (s.port p).notices with
            | [] => []
            | h :: rest =>
              if tally = 0 then rest
              else { h with
                count := tally
                detail := if h.kind = .frameLate ∨ h.kind = .overflow then some sum else h.detail } :: rest
          else (s.port p).notices }))

/-- PORT_RESET takes a DETACHED or ATTACHED port to RESETTING, empties what it holds and puts the forced
detach into its request slot unless a request is TAKEN; in INIT and RESETTING it is ignored. A code that is none of
the five is refused and sets REJECTED; a transaction that ends before its first byte is complete has no effect. The
code byte of a transaction says which it is.
The edges and the bytes on SDO are the model's reading (log entries 5 and 12). -/
def Obligations.PortResetAndUnknownCodes : Prop :=
  (∀ (s : State) (p : Port) (n : Nat),
    (s.PortReady p → (s.port p).state = .detached ∨ (s.port p).state = .attached →
      exec (.portReset p (.rise n)) s = .next (s.setPort p { s.port p with
        state := .resetting, rejected := false, frameError := false, response := none, notices := []
        request := match (s.port p).request with | .taken i => .taken i | _ => .held .forcedDetach
        select := .high, sdo := List.replicate (n + 1) 0 }).arbitrate) ∧
    (s.PortReady p → (s.port p).state = .init ∨ (s.port p).state = .resetting →
      exec (.portReset p (.rise n)) s =
        .next (s.setPort p { s.port p with select := .high, sdo := List.replicate (n + 1) 0 })) ∧
    (∀ code : Byte, s.PortReady p → code ∉ [0x5A, 0xC3, 0x3C, 0xA5, 0x96] →
      exec (.unknownTransaction p (some code) (.rise n)) s = .next (s.setPort p { s.port p with
        rejected := true, select := .high, sdo := List.replicate (n + 1) 0 })) ∧
    (s.PortReady p → exec (.unknownTransaction p none (.rise n)) s =
      .next (s.setPort p { s.port p with select := .high }))) ∧
  ∀ (p : Port) (bytes : List Byte) (n : Nat), bytes.length = n →
    transactionCommands p 0x5A bytes = [.submit p .fall, .submit p .code, .submit p (.rise bytes)] ∧
    transactionCommands p 0xC3 bytes = [.collect p .fall, .collect p .code, .collect p (.rise n)] ∧
    transactionCommands p 0x3C bytes = [.status p .fall, .status p .code, .status p (.rise n)] ∧
    transactionCommands p 0xA5 bytes = [.notice p .fall, .notice p .code, .notice p (.rise n)] ∧
    transactionCommands p 0x96 bytes = [.portReset p .fall, .portReset p (.rise n)] ∧
    ∀ code : Byte, code ∉ [0x5A, 0xC3, 0x3C, 0xA5, 0x96] → transactionCommands p code bytes =
      [.unknownTransaction p (some code) .fall, .unknownTransaction p (some code) (.rise n)]

/-! ## The arbiter -/

/-- The arbiter's order: the fill report, the marked lease expiry, the cadence report of the lowest-numbered
stream; the grant ends the presentation and leaves the pointer. A busy core, a port in INIT or no item: no grant.
That a grant happens in the presenting or freeing event is the model's reading of R151 (log entry 3); that the entry
leaves the table, the engine moves on and the late count, the change and R are read at the grant is its reading of
R150 (log entry 17). -/
def Obligations.ArbiterChoosesInOrder : Prop :=
  ∀ s : State,
    (s.core ≠ none ∨ (∃ p, (s.port p).state = .init) → s.arbitrate = s) ∧
    (s.core = none → (∀ p, (s.port p).state ≠ .init) →
      (∀ r, s.engine.state = .reporting r →
        s.arbitrate = { s with
          engine := s.engine.takeReport s.timebase
          core := some { item := .fillReport r, takenAt := s.timebase } }) ∧
      ((∀ r, s.engine.state ≠ .reporting r) →
        (∀ front e back, s.leases = front ++ e :: back → (∀ x ∈ front, x.marked = false) → e.marked = true →
          s.arbitrate = { s with
            leases := lookLeases s.timebase
              (s.leases.filter fun x => !(decide (x.handle = e.handle) && decide (x.port = e.port)))
            core := some { item := .leaseExpiry e, takenAt := s.timebase } }) ∧
        ((∀ e ∈ s.leases, e.marked = false) →
          (∀ k, (s.tracker k).late ≠ 0 ∨ (s.tracker k).change ≠ none →
            (∀ j, j < k → (s.tracker j).late = 0 ∧ (s.tracker j).change = none) →
            s.arbitrate = { s.setTracker k { s.tracker k with late := 0, change := none } with
              core := some
                { item := .cadenceReport k (s.tracker k).late (s.tracker k).change (s.tracker k).interval
                  takenAt := s.timebase } }) ∧
          ((∀ k, (s.tracker k).late = 0 ∧ (s.tracker k).change = none) →
            (∀ p i, (s.port p).request ≠ .held i) → s.arbitrate = s))))

/-- The round-robin: with no internal report presented, the first port from the pointer on whose slot is HELD
is granted, its slot becomes TAKEN, and the pointer names the port after it.
That a grant happens in the presenting or freeing event is the model's reading of R151 (log entry 3). -/
def Obligations.RoundRobinServesPorts : Prop :=
  ∀ (s : State) (d : Fin 6) (item : SlotItem), s.core = none → (∀ p, (s.port p).state ≠ .init) →
    (∀ r, s.engine.state ≠ .reporting r) → (∀ e ∈ s.leases, e.marked = false) →
    (∀ k, (s.tracker k).late = 0 ∧ (s.tracker k).change = none) →
    (∀ c, c < d → ∀ i, (s.port (s.pointer + c)).request ≠ .held i) →
    (s.port (s.pointer + d)).request = .held item →
    s.arbitrate = { s.setPort (s.pointer + d) { s.port (s.pointer + d) with request := .taken item } with
      pointer := s.pointer + d + 1
      core := some
        { item := match item with
            | .request _ => .request (s.pointer + d)
            | .forcedDetach => .forcedDetach (s.pointer + d)
          takenAt := s.timebase } }

/-! ## The common checks -/

/-- Steps 1 and 2 of the common check order: BAD_REQUEST for a code or length the table does not list, then
ALREADY_ATTACHED for ATTACH, NOT_ATTACHED and STALE_SESSION for every other request. -/
def Obligations.CodeLengthAndSessionAreCheckedFirst : Prop :=
  ∀ (s : State) (p : Port) (f : RequestFrame) (t : Time), s.Executes p f t →
    (f.request = none ↔ ∀ row ∈ ([(0x01, [5]), (0x02, [0]), (0x03, [5]),
        (0x04, [38, 48, 58, 68, 78, 88, 98, 108]), (0x05, [1]), (0x06, [4]), (0x07, [1]), (0x08, [1]),
        (0x09, [2]), (0x0A, [2]), (0x0B, [12]), (0x0C, [5]), (0x0D, [1]), (0x0E, [2]), (0x0F, [2]),
        (0x10, [1]), (0x11, [1]), (0x12, [0])] : List (Byte × List Nat)),
      f.code = row.1 → f.payload.length ∉ row.2) ∧
    (f.request = none →
      exec (.unknownRequest p) s = .next (State.respond p f .badRequest [] s).arbitrate) ∧
    (f.request = some .attach → (s.port p).inForce = true →
      exec (.attach p) s = .next (State.respond p f .alreadyAttached [] s).arbitrate) ∧
    (∀ r, f.request = some r → r ≠ .attach →
      ((s.port p).inForce = false →
        exec (f.command p) s = .next (State.respond p f .notAttached [] s).arbitrate) ∧
      ((s.port p).inForce = true → f.session ≠ (s.port p).session →
        exec (f.command p) s = .next (State.respond p f .staleSession [] s).arbitrate))

/-- A request answered with anything but OK changes nothing but its slots, with two exceptions: NO_BUFFER sets
the stream's producer-waiting flag, and EXPIRED takes the handle out of the port's expired-handle list. -/
def Obligations.RefusedRequestsChangeNothing : Prop :=
  ∀ (s : State) (p : Port) (f : RequestFrame) (t : Time), s.Executes p f t →
    ∃ (result : Result) (payload : List Byte) (u : State),
      exec (f.command p) s = .next (State.respond p f result payload u).arbitrate ∧
      (result ≠ .ok →
        u = s ∨
        (result = .noBuffer ∧ f.request = some .acquireWrite ∧
          ∃ k st, s.stream k = some st ∧ f.field 0 1 = k.val ∧
            u = s.setStream k (some { st with producerWaiting := true })) ∨
        (result = .expired ∧ f.handle ∈ (s.port p).expired ∧
          u = s.setPort p { s.port p with expired := (s.port p).expired.filter fun x => x ≠ f.handle }))

/-! ## Sessions -/

/-- ATTACH from a port with no session gives the next session number, the mask and the enables; SET_NOTICE_MASK
replaces mask and enables. Both answer BAD_PARAMETER to a mask that selects another bit than 1 to 19 and to an
enables byte with a bit above 1. -/
def Obligations.AttachAndMaskSetTheSession : Prop :=
  ∀ (s : State) (p : Port) (f : RequestFrame) (t : Time) (good : Prop), s.Executes p f t →
    (good ↔ (∀ b, f.mask.getLsbD b = true → 1 ≤ b ∧ b ≤ 19) ∧ ∀ b, f.enables.getLsbD b = true → b ≤ 1) →
    (f.request = some .attach → (s.port p).inForce = false →
      (good → ∀ n : BitVec 8, n = (if (s.port p).session = 255 then 1 else (s.port p).session + 1) →
        exec (.attach p) s = .next (State.respond p f .ok [n] (s.setPort p { s.port p with
          session := n, inForce := true, mask := f.mask
          responseAttention := f.enables.getLsbD 0, noticeAttention := f.enables.getLsbD 1
          state := if (s.port p).state = .resetting then .resetting else .attached })).arbitrate) ∧
      (¬good → exec (.attach p) s = .next (State.respond p f .badParameter [] s).arbitrate)) ∧
    (f.request = some .setNoticeMask → s.InSession p f →
      (good → exec (.setNoticeMask p) s =
        .next (State.respond p f .ok (bytesOfNat 4 f.mask.toNat ++ [f.enables]) (s.setPort p { s.port p with
          mask := f.mask, responseAttention := f.enables.getLsbD 0
          noticeAttention := f.enables.getLsbD 1 })).arbitrate) ∧
      (¬good → exec (.setNoticeMask p) s = .next (State.respond p f .badParameter [] s).arbitrate))

/-- DETACH and the forced detach end the port's session: after the detach actions the port has no session, no
notices, an empty mask and no attention, and a NOTICE under way has no head in transfer any more. DETACH answers
with the number that ended; the forced detach of a port without a session only empties its expired-handle list
before that, and places no response. -/
def Obligations.DetachEndsTheSession : Prop :=
  ∀ (s : State) (p : Port) (emptied : Option Transaction → Option Transaction),
    (∀ x, emptied x = match x with
      | some (.notice copy _ _ _) => some (.notice copy false 0 0)
      | x => x) →
    (∀ f t, s.Executes p f t → s.InSession p f → f.request = some .detach →
      ∃ q : AgentPort,
        exec (.detach p) s =
          .next (State.respond p f .ok [(s.port p).session] ((s.detachActions p).setPort p q)).arbitrate ∧
        q.inForce = false ∧ q.notices = [] ∧ q.mask = 0 ∧ q.responseAttention = false ∧
        q.noticeAttention = false ∧ q.expired = [] ∧ q.session = (s.port p).session ∧
        q.rejected = (s.port p).rejected ∧ q.frameError = (s.port p).frameError ∧
        q.transaction = emptied (s.port p).transaction ∧
        q.state = if (s.port p).state = .resetting then .resetting else .detached) ∧
    (∀ t, s.core = some { item := .forcedDetach p, takenAt := t } →
      ∃ q : AgentPort,
        exec (.forcedDetach p) s = .next (State.arbitrate
          { (if (s.port p).inForce = true then s.detachActions p else s).setPort p q with core := none }) ∧
        q.state = .detached ∧ q.request = .empty ∧ q.inForce = false ∧ q.notices = [] ∧ q.mask = 0 ∧
        q.responseAttention = false ∧ q.noticeAttention = false ∧ q.expired = [] ∧
        q.session = (s.port p).session ∧ q.response = (s.port p).response ∧
        q.transaction = emptied (s.port p).transaction ∧
        q.rejected = (s.port p).rejected ∧ q.frameError = (s.port p).frameError)

/-- After the detach actions the port consumes no stream and is no present producer of any, holds no record, and its
expired-handle list is empty. A stream it produced is ORPHANED with a STALLED tracker when it was OPEN with
consumers, and CLOSING or closed by DEPARTURE when it was PREPARING or OPEN without any; its write handle there has
ended (one in a CLOSING stream ended at the entry into it). Ports change by enqueued notices alone, of five kinds:
CONSUMER_LEFT goes to each present producer it consumed from, PRODUCER_GONE to each consumer of a stream it orphaned.
Generations stand. The holds are those that a run leaves a port: in streams it consumes and in CLOSING ones (the
check of R35 after them is log entry 16's). -/
def Obligations.DetachActionsRemoveThePort : Prop :=
  ∀ (s u : State) (p : Port), u = s.detachActions p →
    (∀ k st, u.stream k = some st →
      (∀ c ∈ st.consumers, c.port ≠ p) ∧ ¬(st.producer = p ∧ st.producerPresent = true)) ∧
    ((∀ i, (s.record i).heldBy p = true → ∃ k st, (s.record i).names k = true ∧ s.stream k = some st ∧
        ((∃ c ∈ st.consumers, c.port = p) ∨ ∃ o, st.phase = .closing o)) →
      ∀ i, (u.record i).heldBy p = false) ∧
    (∀ k st, s.stream k = some st → st.producer = p → st.producerPresent = true →
      (∀ c ∈ st.consumers, c.port ≠ p) →
      (st.phase = .opened → st.consumers ≠ [] →
        (∃ free, u.stream k = some { st with
          phase := .orphaned, producerPresent := false, producerWaiting := false, free := free }) ∧
        u.tracker k = { s.tracker k with state := .stalled, watch := none, late := 0, change := none }) ∧
      (st.phase = .preparing ∨ (st.phase = .opened ∧ st.consumers = []) → ∀ st', u.stream k = some st' →
        st'.phase = .closing .departure ∧ st'.producerPresent = false ∧ st'.consumers = [] ∧ st'.ready = []) ∧
      ((∀ o, st.phase ≠ .closing o) → ∀ i, (s.record i).names k = true → (s.record i).writer ≠ none →
        (∀ j, (s.record j).names k = true → (s.record j).writer ≠ none → j = i) →
        (u.record i).writer = none)) ∧
    (∀ q, ∃ sent : List (NoticeKind × StreamId × Option (BitVec 32)),
      (∀ n ∈ sent, n.1 ∈
        [NoticeKind.consumerLeft, .bufferAvailable, .streamClosing, .streamClosed, .producerGone]) ∧
      (∀ k st, s.stream k = some st → (∃ c ∈ st.consumers, c.port = p) → st.producer = q →
        st.producerPresent = true → (.consumerLeft, k, some (BitVec.ofNat 32 p.val)) ∈ sent) ∧
      (∀ k st, s.stream k = some st → st.producer = p → st.producerPresent = true → st.phase = .opened →
        (∀ c ∈ st.consumers, c.port ≠ p) → (∃ c ∈ st.consumers, c.port = q) → (.producerGone, k, none) ∈ sent) ∧
      u.port q = { sent.foldl (fun x n => x.enqueue n.1 n.2.1 n.2.2 s.timebase) (s.port q) with
        expired := if q = p then [] else (s.port q).expired }) ∧
    (∀ i, (u.record i).generation = (s.record i).generation) ∧
    u = { u with
      core := s.core, pointer := s.pointer, timebase := s.timebase, resetAsserted := s.resetAsserted
      fillBeats := s.fillBeats, pending := s.pending }

/-! ## Opening, joining, leaving and closing -/

/-- OPEN_STREAM, its checks passed: the lowest CLOSED context and the lowest UNASSIGNED records are taken, the
records in descriptor order with the fallback last, and with a fallback its fill is submitted.
The end of a job at the top of the address space is 0 (the model's reading, log entry 10). -/
def Obligations.OpenStreamCreatesTheStream : Prop :=
  ∀ (s : State) (p : Port) (f : RequestFrame) (t : Time) (k : StreamId), s.Executes p f t → s.InSession p f →
    f.request = some .openStream → f.parametersInRange = true → (∀ d ∈ f.descriptors, d.inBounds = true) →
    firstConflict s.regionMap f.descriptors 0 = none → s.producerCount p < 4 →
    s.stream k = none → (∀ j, j < k → s.stream j ≠ none) →
    f.recordCount ≤ s.unassigned.length → (f.hasFallback = true → s.engine.jobs.length < 8) →
    ∃ u : State,
      exec (.openStream p) s = .next (State.respond p f .ok
        ([BitVec.ofNat 8 k.val, if f.hasFallback then 1 else 2, BitVec.ofNat 8 f.recordCount] ++
          (s.unassigned.take f.recordCount).map fun i => BitVec.ofNat 8 i.val) u).arbitrate ∧
      u.stream k = some
        { phase := if f.hasFallback then .preparing else .opened, producer := p, producerPresent := true
          policy := if f.field 0 1 = 0 then .queue else .latest
          overflow := if f.field 1 1 = 0 then .block else .dropOldest
          frameCount := f.frameCount
          fallbackPattern := if f.hasFallback then some (BitVec.ofNat 32 (f.field 14 4)) else none
          consumerLimit := f.field 4 1
          writeLease := BitVec.ofNat 16 (f.field 5 2), readLease := BitVec.ofNat 16 (f.field 7 2)
          cadence :=
            { enable := decide (f.field 9 1 = 1), tolerance := f.field 10 1, lockCount := f.field 11 1
              unlockCount := f.field 12 1, stallCount := f.field 13 1 }
          nextSequence := 1, ready := [], free := s.unassigned.take f.frameCount, consumers := []
          producerWaiting := false, published := 0, dropped := 0 } ∧
      (∀ j, j ≠ k → u.stream j = s.stream j) ∧
      (∀ (j : Nat) (i : RecordId), j < f.frameCount → s.unassigned[j]? = some i →
        u.record i =
          { generation := (s.record i).generation, fill := .noJob
            use := .frame
              { stream := k, base := BitVec.ofNat 40 (f.descriptor j).base
                length := BitVec.ofNat 32 (f.descriptor j).length } .free }) ∧
      (∀ i, f.hasFallback = true → s.unassigned[f.frameCount]? = some i →
        u.record i =
          { generation := (s.record i).generation, fill := .named s.engine.nextTag
            use := .fallback
              { stream := k, base := BitVec.ofNat 40 (f.descriptor f.frameCount).base
                length := BitVec.ofNat 32 (f.descriptor f.frameCount).length } PortSet.empty .filling } ∧
        u.engine = s.engine.submit s.timebase
          { index := i, kind := .fallbackFill, requester := p, pattern := BitVec.ofNat 32 (f.field 14 4)
            start := (u.record i).base, stop := (u.record i).base + (u.record i).length.setWidth 40 }) ∧
      (f.hasFallback = false → u.engine = s.engine) ∧
      (∀ i, i ∉ s.unassigned.take f.recordCount → u.record i = s.record i) ∧
      (u.tracker k = Tracker.cleared
        { enable := decide (f.field 9 1 = 1), tolerance := f.field 10 1, lockCount := f.field 11 1
          unlockCount := f.field 12 1, stallCount := f.field 13 1 }) ∧
      (∀ j, j ≠ k → u.tracker j = s.tracker j) ∧
      u = { s with records := u.records, streams := u.streams, trackers := u.trackers, engine := u.engine }

/-- OPEN_STREAM's checks run in the order of R28, and a request that fails one changes nothing but its slots. -/
def Obligations.OpenStreamChecksInOrder : Prop :=
  ∀ (s : State) (p : Port) (f : RequestFrame) (t : Time), s.Executes p f t → s.InSession p f →
    f.request = some .openStream →
    (f.parametersInRange = false →
      exec (.openStream p) s = .next (State.respond p f .badParameter [] s).arbitrate) ∧
    (f.parametersInRange = true →
      (∀ front d back, f.descriptors = front ++ d :: back → (∀ x ∈ front, x.inBounds = true) →
        d.inBounds = false →
        exec (.openStream p) s =
          .next (State.respond p f .badDescriptor [BitVec.ofNat 8 front.length] s).arbitrate) ∧
      ((∀ d ∈ f.descriptors, d.inBounds = true) →
        (∀ front d back, f.descriptors = front ++ d :: back →
          (∀ a x b, front = a ++ x :: b → ∀ y, y ∈ s.regionMap ∨ y ∈ a → x.overlaps y = false) →
          (∃ y, (y ∈ s.regionMap ∨ y ∈ front) ∧ d.overlaps y = true) →
          exec (.openStream p) s =
            .next (State.respond p f .regionConflict [BitVec.ofNat 8 front.length] s).arbitrate) ∧
        (firstConflict s.regionMap f.descriptors 0 = none →
          (4 ≤ s.producerCount p →
            exec (.openStream p) s = .next (State.respond p f .roleLimit [] s).arbitrate) ∧
          (s.producerCount p < 4 →
            ((∀ k, s.stream k ≠ none) →
              exec (.openStream p) s = .next (State.respond p f .noStream [] s).arbitrate) ∧
            ((∃ k, s.stream k = none) →
              (s.unassigned.length < f.recordCount →
                exec (.openStream p) s = .next (State.respond p f .noRecords [] s).arbitrate) ∧
              (f.recordCount ≤ s.unassigned.length → f.hasFallback = true → 8 ≤ s.engine.jobs.length →
                exec (.openStream p) s = .next (State.respond p f .fillQueueFull [] s).arbitrate))))))

/-- JOIN appends a consumer entry at the tail, sets its starting point and tells the producer. Its refusals run in
the order of R40, and a refused JOIN changes nothing but its slots. -/
def Obligations.JoinAppendsAConsumer : Prop :=
  ∀ (s : State) (p : Port) (f : RequestFrame) (t : Time) (inRange : Prop),
    s.Executes p f t → s.InSession p f → f.request = some .join →
    (inRange ↔ f.field 1 1 ≤ 1 ∧ 1 ≤ f.field 2 1 ∧ f.field 2 1 ≤ 4 ∧ f.field 3 1 ≤ 1) →
    (¬inRange → exec (.join p) s = .next (State.respond p f .badParameter [] s).arbitrate) ∧
    (inRange → (15 < f.field 0 1 ∨ ∃ k : StreamId, f.field 0 1 = k.val ∧ s.stream k = none) →
      exec (.join p) s = .next (State.respond p f .unknownStream [] s).arbitrate) ∧
    (inRange → ∀ (k : StreamId) (st : Stream), f.field 0 1 = k.val → s.stream k = some st →
      (st.phase ≠ .preparing → st.phase ≠ .opened →
        exec (.join p) s = .next (State.respond p f .streamState [] s).arbitrate) ∧
      (st.phase = .preparing ∨ st.phase = .opened →
        (st.producer = p → exec (.join p) s = .next (State.respond p f .roleConflict [] s).arbitrate) ∧
        (st.producer ≠ p → (∃ c ∈ st.consumers, c.port = p) →
          exec (.join p) s = .next (State.respond p f .alreadyMember [] s).arbitrate) ∧
        (st.producer ≠ p → (∀ c ∈ st.consumers, c.port ≠ p) →
          (st.consumerLimit ≤ st.consumers.length →
            exec (.join p) s = .next (State.respond p f .memberLimit [] s).arbitrate) ∧
          (st.consumers.length < st.consumerLimit → 8 ≤ s.consumerCount p →
            exec (.join p) s = .next (State.respond p f .roleLimit [] s).arbitrate) ∧
          (st.consumers.length < st.consumerLimit → s.consumerCount p < 8 →
            (st.policy = .latest → st.frameCount < st.consumers.length + 1 + 2 →
              exec (.join p) s = .next (State.respond p f .noCapacity [] s).arbitrate) ∧
            ((st.policy = .latest → st.consumers.length + 1 + 2 ≤ st.frameCount) →
              ∃ u : State,
                exec (.join p) s = .next (State.respond p f .ok
                  (match st.policy with
                    | .queue => [0, BitVec.ofNat 8 (f.field 2 1),
                        BitVec.ofNat 8 (st.ready.countP fun i => (u.record i).owedTo p)]
                    | .latest => [1, 1, 0])
                  (u.notify st.producer .consumerJoined k (some (BitVec.ofNat 32 p.val)))).arbitrate ∧
                u = { s.setStream k (some { st with consumers := st.consumers ++
                      [{ port := p
                         holdLimit := match st.policy with | .queue => f.field 2 1 | .latest => 1
                         repeatAllowed :=
                           match st.policy with | .queue => false | .latest => decide (f.field 3 1 = 1)
                         lastDelivered := match st.policy with
                           | .queue => none
                           | .latest =>
                             if f.field 1 1 = 0 then
                               match st.ready with
                               | [] => none
                               | i :: _ => (s.record i).stamp.map FrameStamp.sequence
                             else none
                         skipped := 0, readHolds := 0 }] }) with records := u.records } ∧
                (∀ i, u.record i =
                  if st.policy = .queue ∧ f.field 1 1 = 1 ∧ i ∈ st.ready then
                    (s.record i).mapPending fun x => x.add p
                  else s.record i))))))

/-- LEAVE performs the departure of the consumer and answers with the number of holds it released. -/
def Obligations.LeaveDeparts : Prop :=
  ∀ (s : State) (p : Port) (f : RequestFrame) (t : Time) (k : StreamId) (st : Stream),
    s.Executes p f t → s.InSession p f → f.request = some .leave → f.field 0 1 = k.val →
    s.stream k = some st → (∀ o, st.phase ≠ .closing o) →
    ((∃ c ∈ st.consumers, c.port = p) →
      exec (.leave p) s = .next (State.respond p f .ok
        [BitVec.ofNat 8 (allRecords.countP fun i => (s.record i).names k && (s.record i).heldBy p)]
        (s.depart p k)).arbitrate) ∧
    ((∀ c ∈ st.consumers, c.port ≠ p) →
      exec (.leave p) s = .next (State.respond p f .notMember [] s).arbitrate)

/-- After a departure the port has no entry in the stream, holds no record of it and no lease entry there, and is
owed no frame of its ready list; the other consumers keep their entries unless the stream was ORPHANED and is left
without any. CONSUMER_LEFT goes to a present producer, behind the BUFFER_AVAILABLE of the first buffer freed when
the producer was waiting; no other port changes. -/
def Obligations.DepartureRemovesTheConsumer : Prop :=
  ∀ (s u : State) (p : Port) (k : StreamId) (st : Stream), u = s.depart p k →
    s.stream k = some st → (∀ o, st.phase ≠ .closing o) →
    (∀ st', u.stream k = some st' →
      (∀ c ∈ st'.consumers, c.port ≠ p) ∧
      ((∃ c ∈ st.consumers, c.port ≠ p) ∨ st.phase ≠ .orphaned →
        st'.consumers = st.consumers.filter (fun c => c.port ≠ p) ∧ st'.phase = st.phase)) ∧
    (∀ i, (s.record i).names k = true → (u.record i).heldBy p = false) ∧
    (∀ i, (s.record i).names k = true → (s.record i).heldBy p = true →
      ∀ e ∈ u.leases, ¬(e.handle = formHandle .read i (s.record i).generation ∧ e.port = p)) ∧
    (st.policy = .queue → ∀ i ∈ st.ready, (u.record i).owedTo p = false) ∧
    (∀ j, j ≠ k → u.stream j = s.stream j ∧ u.tracker j = s.tracker j) ∧
    (∀ q, q ≠ st.producer → u.port q = s.port q) ∧
    ∃ freed : List RecordId, freed.length ≤ 1 ∧ (st.producerWaiting = false → freed = []) ∧
      ∀ x : AgentPort, x = freed.foldl
          (fun x i => x.enqueue .bufferAvailable k (some (BitVec.ofNat 32 i.val)) s.timebase)
          (s.port st.producer) →
        u.port st.producer =
          if st.producerPresent = true then x.enqueue .consumerLeft k (some (BitVec.ofNat 32 p.val)) s.timebase
          else x

/-- CLOSE_STREAM by the producer sets the origin REQUEST, performs entry into CLOSING and answers with the
stream's state after it; any other port is answered NOT_PRODUCER. -/
def Obligations.CloseStreamEntersClosing : Prop :=
  ∀ (s : State) (p : Port) (f : RequestFrame) (t : Time) (k : StreamId) (st : Stream),
    s.Executes p f t → s.InSession p f → f.request = some .closeStream → f.field 0 1 = k.val →
    s.stream k = some st → (st.phase = .preparing ∨ st.phase = .opened) →
    (st.producer = p →
      exec (.closeStream p) s = .next (State.respond p f .ok
        [if (s.enterClosing k .request).stream k = none then 0 else 4] (s.enterClosing k .request)).arbitrate) ∧
    (st.producer ≠ p →
      exec (.closeStream p) s = .next (State.respond p f .notProducer [] s).arbitrate)

/-- Entry into CLOSING: no consumers, no ready list and no waiting producer remain, the tracker is cleared, and
the stream is CLOSING with the given origin unless the close completed, which makes its records UNASSIGNED. Each
READY record becomes FREE, or DRAINING when a port holds it; the write handle ends with its lease, its record FREE,
or SETTLING when its fill job was marked; a fill of the fallback is cancelled, its condition standing.
STREAM_CLOSING goes to each consumer, then STREAM_CLOSED to a present producer when a close on REQUEST completed. -/
def Obligations.EntryIntoClosingTakesMembership : Prop :=
  ∀ (s u : State) (k : StreamId) (st : Stream) (o : CloseOrigin), u = s.enterClosing k o → s.stream k = some st →
    (∀ st', u.stream k = some st' →
      st'.phase = .closing o ∧ st'.consumers = [] ∧ st'.ready = [] ∧ st'.producerWaiting = false ∧
      st'.producer = st.producer ∧ st'.producerPresent = st.producerPresent ∧
      st'.published = st.published ∧ st'.dropped = st.dropped ∧ st'.nextSequence = st.nextSequence) ∧
    u.tracker k = Tracker.cleared (s.tracker k).params ∧
    (∀ j, j ≠ k → u.stream j = s.stream j ∧ u.tracker j = s.tracker j) ∧
    (∀ i, (u.record i).generation = (s.record i).generation) ∧
    (u.stream k = none → ∀ i, (s.record i).names k = true → (u.record i).use = .unassigned) ∧
    (u.stream k ≠ none → ∀ i a m owed hold, i ∈ st.ready →
      (s.record i).use = .frame a (.ready m owed hold) → u.record i = { s.record i with
        use := if hold = PortSet.empty then .frame a .free else .frame a (.draining m hold) }) ∧
    (∀ i a q, (s.record i).names k = true → (s.record i).use = .frame a (.writing q) →
      (∀ j, j ≠ i → (s.record j).names k = true → (s.record j).writer = none) →
      (∀ j ∈ st.ready, (s.record j).writer = none) →
      (∀ e ∈ u.leases, ¬(e.handle = formHandle .write i (s.record i).generation ∧ e.port = q)) ∧
      (u.stream k ≠ none →
        ((s.record i).fill = .noJob → u.record i = { s.record i with use := .frame a .free }) ∧
        (∀ tag, (s.record i).fill = .named tag → u.record i =
          if (s.engine.cancel tag).1 = .marked then
            { s.record i with fill := .cancelling tag, use := .frame a .settling }
          else { s.record i with fill := .noJob, use := .frame a .free }))) ∧
    (u.stream k ≠ none → ∀ i, s.fallbackOf k = some i →
      ((s.record i).fill = .noJob → u.record i = s.record i) ∧
      (∀ tag, (s.record i).fill = .named tag → u.record i = { s.record i with
        fill := if (s.engine.cancel tag).1 = .marked then .cancelling tag else .noJob })) ∧
    (s.NoWriter k → (∀ i tag, s.fallbackOf k = some i → (s.record i).fill = .named tag →
      u.engine = (s.engine.cancel tag).2)) ∧
    ((st.consumers.map Consumer.port).Nodup → ∀ (q : Port) (x : AgentPort),
      x = (if ∃ c ∈ st.consumers, c.port = q then (s.port q).enqueue .streamClosing k none s.timebase
        else s.port q) →
      u.port q =
        if u.stream k = none ∧ o = .request ∧ st.producerPresent = true ∧ q = st.producer then
          x.enqueue .streamClosed k none s.timebase
        else x)

/-- The completion check: a CLOSING stream whose records are all settled loses its records and its context, and
STREAM_CLOSED goes to a present producer when the origin is REQUEST; otherwise nothing changes. -/
def Obligations.CloseCompletesWhenSettled : Prop :=
  ∀ (s : State) (k : StreamId) (st : Stream) (o : CloseOrigin),
    s.stream k = some st → st.phase = .closing o →
    ((∀ i, (s.record i).names k = true → (s.record i).fill = .noJob ∧
        ((∃ a, (s.record i).use = .frame a .free) ∨
          ∃ a c, (s.record i).use = .fallback a PortSet.empty c)) →
      ∃ u : State,
        s.completionCheck k =
          (if o = .request ∧ st.producerPresent = true then u.notify st.producer .streamClosed k none else u) ∧
        u = { s.setStream k none with records := u.records } ∧
        ∀ i, u.record i =
          if (s.record i).names k then { s.record i with use := .unassigned } else s.record i) ∧
    ((∃ i, (s.record i).names k = true ∧ ((s.record i).fill ≠ .noJob ∨
        (∃ a fs, (s.record i).use = .frame a fs ∧ fs ≠ .free) ∨
        ∃ a x c, (s.record i).use = .fallback a x c ∧ x ≠ PortSet.empty)) →
      s.completionCheck k = s)

/-! ## Producing -/

/-- ACQUIRE_WRITE takes the head of the free list: the generation rises by 1, the record is WRITING for the
producer, a lease entry is made when the write lease is not 0, and the response carries the handle.
The lease runs from the end of the execution (the model's choice, log entry 4). -/
def Obligations.AcquireWriteTakesTheFreeHead : Prop :=
  ∀ (s : State) (p : Port) (f : RequestFrame) (t : Time) (k : StreamId) (st : Stream) (i : RecordId)
    (rest : List RecordId) (a : Assignment) (fs : FrameState) (h : BitVec 16) (d : Time),
    s.Executes p f t → s.InSession p f → f.request = some .acquireWrite → f.field 0 1 = k.val →
    s.stream k = some st → st.phase = .opened → st.producer = p → s.NoWriter k → st.free = i :: rest →
    (s.record i).use = .frame a fs → s.LeaseRoom st.writeLease →
    h = formHandle .write i ((s.record i).generation + 1) →
    d = s.timebase + BitVec.ofNat 32 (st.writeLease.toNat * 100) →
    exec (.acquireWrite p) s = .next (State.respond p f .ok
      (bytesOfNat 2 h.toNat ++ bytesOfNat 5 a.base.toNat ++ bytesOfNat 4 a.length.toNat ++
        (if st.writeLease = 0 then 0 :: bytesOfNat 4 0 else 1 :: bytesOfNat 4 d.toNat) ++ bytesOfNat 4 0)
      { s with
        records := s.records.set i
          { s.record i with generation := (s.record i).generation + 1, use := .frame a (.writing p) }
        streams := s.streams.set k (some { st with free := rest, producerWaiting := false })
        leases := if st.writeLease = 0 then s.leases
          else insertLease
            { handle := h, port := p, index := i, kind := .write, deadline := d, marked := false } s.leases
        ports := s.ports.set p { s.port p with
          expired := (s.port p).expired.filter fun x => x ≠ h } }).arbitrate

/-- ACQUIRE_WRITE under DROP_OLDEST with an empty free list drops the first unheld ready frame: each consumer
still owed it counts one skip and is sent FRAME_DROPPED, and the buffer passes to WRITING.
The lease runs from the end of the execution (the model's choice, log entry 4). -/
def Obligations.AcquireWriteDropsTheOldest : Prop :=
  ∀ (s : State) (p : Port) (f : RequestFrame) (t : Time) (k : StreamId) (st : Stream) (i : RecordId)
    (front back : List RecordId) (a : Assignment) (m : FrameStamp) (owed : PortSet) (h : BitVec 16) (d : Time),
    s.Executes p f t → s.InSession p f → f.request = some .acquireWrite → f.field 0 1 = k.val →
    s.stream k = some st → st.phase = .opened → st.producer = p → s.NoWriter k → st.free = [] →
    st.policy = .queue → st.overflow = .dropOldest → st.ready = front ++ i :: back →
    (∀ j ∈ front, (s.record j).unheld = false) →
    (s.record i).use = .frame a (.ready m (some owed) PortSet.empty) → s.LeaseRoom st.writeLease →
    h = formHandle .write i ((s.record i).generation + 1) →
    d = s.timebase + BitVec.ofNat 32 (st.writeLease.toNat * 100) →
    ∃ u : State,
      exec (.acquireWrite p) s = .next (State.respond p f .ok
        (bytesOfNat 2 h.toNat ++ bytesOfNat 5 a.base.toNat ++ bytesOfNat 4 a.length.toNat ++
          (if st.writeLease = 0 then 2 :: bytesOfNat 4 0 else 3 :: bytesOfNat 4 d.toNat) ++
          bytesOfNat 4 m.sequence.toNat)
        (u.setPort p { u.port p with expired := (u.port p).expired.filter fun x => x ≠ h })).arbitrate ∧
      u = State.notifyEach ((st.consumers.map Consumer.port).filter owed.has) .frameDropped k
        (some m.sequence)
        { s with
          records := s.records.set i
            { s.record i with generation := (s.record i).generation + 1, use := .frame a (.writing p) }
          streams := s.streams.set k (some { st with
            ready := st.ready.filter fun j => j ≠ i
            consumers := st.consumers.map fun c =>
              if owed.has c.port then { c with skipped := min 65535 (c.skipped + 1) } else c
            dropped := st.dropped + 1, producerWaiting := false })
          leases := if st.writeLease = 0 then s.leases
            else insertLease
              { handle := h, port := p, index := i, kind := .write, deadline := d, marked := false } s.leases }

/-- ACQUIRE_WRITE's refusals: a second write handle, no buffer to give (which sets the producer-waiting flag),
and a full lease table, in this order, whether the buffer is the head of the free list or would be a dropped
frame's, which then is not dropped. -/
def Obligations.AcquireWriteRefusals : Prop :=
  ∀ (s : State) (p : Port) (f : RequestFrame) (t : Time) (k : StreamId) (st : Stream),
    s.Executes p f t → s.InSession p f → f.request = some .acquireWrite → f.field 0 1 = k.val →
    s.stream k = some st → st.phase = .opened →
    (st.producer ≠ p →
      exec (.acquireWrite p) s = .next (State.respond p f .notProducer [] s).arbitrate) ∧
    (st.producer = p →
      ((∃ i q, (s.record i).names k = true ∧ (s.record i).writer = some q) →
        exec (.acquireWrite p) s = .next (State.respond p f .holdLimit [] s).arbitrate) ∧
      (s.NoWriter k →
        (st.free = [] →
          st.policy = .latest ∨ st.overflow = .block ∨ (∀ i ∈ st.ready, (s.record i).unheld = false) →
          exec (.acquireWrite p) s = .next (State.respond p f .noBuffer []
            (s.setStream k (some { st with producerWaiting := true }))).arbitrate) ∧
        (st.free ≠ [] ∨ (st.policy = .queue ∧ st.overflow = .dropOldest ∧
            ∃ i ∈ st.ready, (s.record i).unheld = true) →
          st.writeLease ≠ 0 → 128 ≤ s.leases.length →
          exec (.acquireWrite p) s = .next (State.respond p f .noLease [] s).arbitrate)))

/-- PUBLISH of a record whose fill names a job is answered FILL_PENDING. In a QUEUE stream with consumers the record
is READY at the tail of the ready list, owed to every consumer, with the next sequence and the time of the grant;
FRAME_AVAILABLE goes to each consumer.
The time of the grant and the count of all consumers as notified are the model's choices (log entries 4 and 8). -/
def Obligations.PublishQueuesTheFrame : Prop :=
  ∀ (s : State) (p : Port) (f : RequestFrame) (t : Time) (i : RecordId) (a : Assignment) (st : Stream),
    s.Executes p f t → s.InSession p f → f.request = some .publish →
    f.handle = formHandle .write i (s.record i).generation →
    (s.record i).use = .frame a (.writing p) → s.stream a.stream = some st → st.phase = .opened →
    ((s.record i).fill ≠ .noJob →
      exec (.publish p) s = .next (State.respond p f .fillPending [] s).arbitrate) ∧
    ((s.record i).fill = .noJob → st.policy = .queue → st.consumers ≠ [] →
      ∃ owed : PortSet, (∀ q, owed.has q = true ↔ ∃ c ∈ st.consumers, c.port = q) ∧
        exec (.publish p) s = .next (State.respond p f .ok
          (bytesOfNat 4 st.nextSequence.toNat ++ bytesOfNat 4 t.toNat ++
            [BitVec.ofNat 8 st.consumers.length, 0])
          (State.notifyEach (st.consumers.map Consumer.port) .frameAvailable a.stream (some st.nextSequence)
            { s with
              records := s.records.set i { s.record i with
                use := .frame a
                  (.ready { sequence := st.nextSequence, publishTime := t } (some owed) PortSet.empty) }
              streams := s.streams.set a.stream (some { st with
                nextSequence := if st.nextSequence = 4294967295 then 1 else st.nextSequence + 1
                published := st.published + 1, ready := st.ready ++ [i] })
              trackers := s.trackers.set a.stream ((s.tracker a.stream).publication t)
              leases := removeLease s.timebase f.handle p s.leases })).arbitrate)

/-- PUBLISH in a QUEUE stream without consumers: the frame is dropped at once, the record becomes FREE, the
sequence is consumed, and the response carries UNREAD.
The publish time is that of the grant (the model's choice, log entry 4). -/
def Obligations.PublishUnreadDropsTheFrame : Prop :=
  ∀ (s : State) (p : Port) (f : RequestFrame) (t : Time) (i : RecordId) (a : Assignment) (st : Stream),
    s.Executes p f t → s.InSession p f → f.request = some .publish →
    f.handle = formHandle .write i (s.record i).generation →
    (s.record i).use = .frame a (.writing p) → (s.record i).fill = .noJob →
    s.stream a.stream = some st → st.phase = .opened → st.policy = .queue → st.consumers = [] →
    st.producerWaiting = false →
    exec (.publish p) s = .next (State.respond p f .ok
      (bytesOfNat 4 st.nextSequence.toNat ++ bytesOfNat 4 t.toNat ++ [0, 1])
      { s with
        records := s.records.set i { s.record i with use := .frame a .free }
        streams := s.streams.set a.stream (some { st with
          nextSequence := if st.nextSequence = 4294967295 then 1 else st.nextSequence + 1
          published := st.published + 1, dropped := st.dropped + 1, free := st.free ++ [i] })
        trackers := s.trackers.set a.stream ((s.tracker a.stream).publication t)
        leases := removeLease s.timebase f.handle p s.leases }).arbitrate

/-- PUBLISH in a LATEST stream: the record becomes the one READY record; the superseded frame, if any, is
retired, and the consumers that were not given it count one skip; FRAME_AVAILABLE goes to each consumer.
The time of the grant and the count of all consumers as notified are the model's choices (log entries 4 and 8). -/
def Obligations.PublishSupersedesTheLatest : Prop :=
  ∀ (s : State) (p : Port) (f : RequestFrame) (t : Time) (i : RecordId) (a : Assignment) (st : Stream),
    s.Executes p f t → s.InSession p f → f.request = some .publish →
    f.handle = formHandle .write i (s.record i).generation →
    (s.record i).use = .frame a (.writing p) → (s.record i).fill = .noJob →
    s.stream a.stream = some st → st.phase = .opened → st.policy = .latest →
    ∃ u v : State,
      exec (.publish p) s = .next (State.respond p f .ok
        (bytesOfNat 4 st.nextSequence.toNat ++ bytesOfNat 4 t.toNat ++
          [BitVec.ofNat 8 st.consumers.length, 0])
        (State.notifyEach (st.consumers.map Consumer.port) .frameAvailable a.stream (some st.nextSequence)
          { v with
            records := v.records.set i { s.record i with
              use := .frame a (.ready { sequence := st.nextSequence, publishTime := t } none PortSet.empty) }
            streams := v.streams.set a.stream
              ((v.stream a.stream).map fun x => { x with ready := [i] }) })).arbitrate ∧
      (st.ready = [] → v = u) ∧
      (∀ old b m x, st.ready = [old] → (s.record old).use = .frame b (.ready m none x) →
        v = if x = PortSet.empty then u.becomeFree old a.stream
          else u.setRecord old { s.record old with use := .frame b (.draining m x) }) ∧
      u = { s with
        streams := s.streams.set a.stream (some { st with
          nextSequence := if st.nextSequence = 4294967295 then 1 else st.nextSequence + 1
          published := st.published + 1, ready := []
          consumers := match st.ready with
            | [] => st.consumers
            | old :: _ => st.consumers.map fun c =>
                if c.lastDelivered = (s.record old).stamp.map FrameStamp.sequence then c
                else { c with skipped := min 65535 (c.skipped + 1) } })
        trackers := s.trackers.set a.stream ((s.tracker a.stream).publication t)
        leases := removeLease s.timebase f.handle p s.leases }

/-- DISCARD ends the write handle: FREE when no fill job stands in the way; with a named job, FREE after
REMOVED or ENDED and SETTLING after MARKED. -/
def Obligations.DiscardEndsTheWriteHandle : Prop :=
  ∀ (s : State) (p : Port) (f : RequestFrame) (t : Time) (i : RecordId) (a : Assignment) (st : Stream) (u : State),
    s.Executes p f t → s.InSession p f → f.request = some .discard →
    f.handle = formHandle .write i (s.record i).generation →
    (s.record i).use = .frame a (.writing p) → s.stream a.stream = some st → st.phase = .opened →
    u = { s with leases := removeLease s.timebase f.handle p s.leases } →
    ((s.record i).fill = .noJob →
      exec (.discard p) s = .next (State.respond p f .ok [1] (u.becomeFree i a.stream)).arbitrate) ∧
    (∀ tag e, (s.record i).fill = .named tag → s.engine.cancel tag = (.marked, e) →
      exec (.discard p) s = .next (State.respond p f .ok [5] { u with
        engine := e
        records := s.records.set i
          { s.record i with fill := .cancelling tag, use := .frame a .settling } }).arbitrate) ∧
    (∀ tag ans e, (s.record i).fill = .named tag → s.engine.cancel tag = (ans, e) → ans ≠ .marked →
      exec (.discard p) s = .next (State.respond p f .ok [1] (State.becomeFree i a.stream { u with
        engine := e, records := s.records.set i { s.record i with fill := .noJob } })).arbitrate)

/-- A frame buffer that becomes FREE joins the tail of the free list; a waiting producer is sent
BUFFER_AVAILABLE with the record's index, and its flag is cleared. -/
def Obligations.FreedBufferJoinsTheFreeList : Prop :=
  ∀ (s : State) (i : RecordId) (k : StreamId) (a : Assignment) (fs : FrameState) (st : Stream),
    (s.record i).use = .frame a fs → s.stream k = some st →
    ∃ u : State,
      u = { s with
        records := s.records.set i { s.record i with use := .frame a .free }
        streams := s.streams.set k (some { st with free := st.free ++ [i], producerWaiting := false }) } ∧
      s.becomeFree i k =
        if st.producerWaiting = true then u.notify st.producer .bufferAvailable k (some (BitVec.ofNat 32 i.val))
        else u

/-- FILL submits a job over the region asked for and sets the record's fill to its tag; REFILL_FALLBACK submits
one over the whole fallback, replaces the pattern and makes the condition FILLING. Their refusals run in the orders
of R142 and R144 and change nothing but the slots.
The end of a job at the top of the address space is 0 (the model's reading, log entry 10). -/
def Obligations.FillRequestsSubmitJobs : Prop :=
  ∀ (s : State) (p : Port) (f : RequestFrame) (t : Time), s.Executes p f t → s.InSession p f →
    (f.request = some .fill →
      (262143 < f.fillOffset ∨ 262144 < f.fillLength →
        exec (.fill p) s = .next (State.respond p f .badParameter [] s).arbitrate) ∧
      (∀ (i : RecordId) (a : Assignment) (st : Stream) (fits : Prop),
        f.fillOffset ≤ 262143 → f.fillLength ≤ 262144 →
        f.handle = formHandle .write i (s.record i).generation →
        (s.record i).use = .frame a (.writing p) → s.stream a.stream = some st → st.phase = .opened →
        (fits ↔ f.fillOffset * 256 < a.length.toNat ∧
          (f.fillLength ≠ 0 → (f.fillOffset + f.fillLength) * 256 ≤ a.length.toNat)) →
        (¬fits → exec (.fill p) s = .next (State.respond p f .badParameter [] s).arbitrate) ∧
        (fits → (s.record i).fill ≠ .noJob →
          exec (.fill p) s = .next (State.respond p f .fillPending [] s).arbitrate) ∧
        (fits → (s.record i).fill = .noJob → 8 ≤ s.engine.jobs.length →
          exec (.fill p) s = .next (State.respond p f .fillQueueFull [] s).arbitrate) ∧
        (fits → (s.record i).fill = .noJob → s.engine.jobs.length < 8 →
          exec (.fill p) s = .next (State.respond p f .ok [s.engine.nextTag] { s with
            records := s.records.set i { s.record i with fill := .named s.engine.nextTag }
            engine := s.engine.submit s.timebase
              { index := i, kind := .frameFill, requester := st.producer
                pattern := BitVec.ofNat 32 (f.field 2 4)
                start := a.base + BitVec.ofNat 40 (f.fillOffset * 256)
                stop := if f.fillLength = 0 then a.base + a.length.setWidth 40
                  else a.base + BitVec.ofNat 40 ((f.fillOffset + f.fillLength) * 256) } }).arbitrate))) ∧
    (∀ (k : StreamId) (st : Stream), f.request = some .refillFallback → f.field 0 1 = k.val →
      s.stream k = some st → st.phase = .opened →
      (st.producer ≠ p →
        exec (.refillFallback p) s = .next (State.respond p f .notProducer [] s).arbitrate) ∧
      (st.producer = p → s.fallbackOf k = none →
        exec (.refillFallback p) s = .next (State.respond p f .noFallback [] s).arbitrate) ∧
      (∀ (i : RecordId) (a : Assignment) (hold : PortSet) (c : FallbackCondition), st.producer = p →
        s.fallbackOf k = some i → (s.record i).use = .fallback a hold c →
        (hold ≠ PortSet.empty →
          exec (.refillFallback p) s = .next (State.respond p f .fallbackHeld [] s).arbitrate) ∧
        (hold = PortSet.empty → (s.record i).fill ≠ .noJob →
          exec (.refillFallback p) s = .next (State.respond p f .fillPending [] s).arbitrate) ∧
        (hold = PortSet.empty → (s.record i).fill = .noJob → 8 ≤ s.engine.jobs.length →
          exec (.refillFallback p) s = .next (State.respond p f .fillQueueFull [] s).arbitrate) ∧
        (hold = PortSet.empty → (s.record i).fill = .noJob → s.engine.jobs.length < 8 →
          exec (.refillFallback p) s = .next (State.respond p f .ok [s.engine.nextTag] { s with
            records := s.records.set i
              { s.record i with fill := .named s.engine.nextTag, use := .fallback a PortSet.empty .filling }
            streams := s.streams.set k (some { st with fallbackPattern := some (BitVec.ofNat 32 (f.field 1 4)) })
            engine := s.engine.submit s.timebase
              { index := i, kind := .fallbackFill, requester := p, pattern := BitVec.ofNat 32 (f.field 1 4)
                start := a.base, stop := a.base + a.length.setWidth 40 } }).arbitrate)))

/-! ## Consuming -/

/-- ACQUIRE_READ of a port without an entry is answered NOT_MEMBER, of one at its hold limit HOLD_LIMIT. In a QUEUE
stream it gives the oldest ready frame owed to the port; the frame leaves the ready list as DRAINING when nobody else
is owed it. With no frame owed the answer is NO_FRAME, with a frame but no room in the lease table NO_LEASE.
The lease runs from the end of the execution (the model's choice, log entry 4). -/
def Obligations.AcquireReadGivesTheOldestOwed : Prop :=
  ∀ (s : State) (p : Port) (f : RequestFrame) (t : Time) (k : StreamId) (st : Stream),
    s.Executes p f t → s.InSession p f → f.request = some .acquireRead → f.field 0 1 = k.val →
    s.stream k = some st → (st.phase = .opened ∨ st.phase = .orphaned) →
    ((∀ c ∈ st.consumers, c.port ≠ p) →
      exec (.acquireRead p) s = .next (State.respond p f .notMember [] s).arbitrate) ∧
    (∀ e : Consumer, st.consumer p = some e → e.readHolds = e.holdLimit →
      exec (.acquireRead p) s = .next (State.respond p f .holdLimit [] s).arbitrate) ∧
    (∀ (e : Consumer) (flags : Byte), st.policy = .queue → st.consumer p = some e → e.readHolds ≠ e.holdLimit →
      flags = BitVec.ofNat 8 ((if (s.tracker k).state = .stalled then 4 else 0) +
        (if st.phase = .orphaned then 8 else 0)) →
      ((∀ i ∈ st.ready, (s.record i).owedTo p = false) →
        exec (.acquireRead p) s =
          .next (State.respond p f .noFrame (flags :: bytesOfNat 2 e.skipped) s).arbitrate) ∧
      (∀ (front back : List RecordId) (i : RecordId) (a : Assignment) (m : FrameStamp) (owed hold : PortSet),
        st.ready = front ++ i :: back → (∀ j ∈ front, (s.record j).owedTo p = false) →
        (s.record i).use = .frame a (.ready m (some owed) hold) → owed.has p = true →
        (st.readLease ≠ 0 → 128 ≤ s.leases.length →
          exec (.acquireRead p) s = .next (State.respond p f .noLease [] s).arbitrate) ∧
        (∀ (h : BitVec 16) (d : Time), s.LeaseRoom st.readLease →
          h = formHandle .read i (s.record i).generation →
          d = s.timebase + BitVec.ofNat 32 (st.readLease.toNat * 100) →
          exec (.acquireRead p) s = .next (State.respond p f .ok
            (bytesOfNat 2 h.toNat ++ bytesOfNat 5 a.base.toNat ++ bytesOfNat 4 a.length.toNat ++
              bytesOfNat 4 m.sequence.toNat ++ bytesOfNat 4 m.publishTime.toNat ++ [flags] ++
              bytesOfNat 2 e.skipped ++
              (if st.readLease = 0 then 2 :: bytesOfNat 4 0 else 3 :: bytesOfNat 4 d.toNat))
            { s with
              records := s.records.set i { s.record i with
                use := if owed.drop p = PortSet.empty then .frame a (.draining m (hold.add p))
                  else .frame a (.ready m (some (owed.drop p)) (hold.add p)) }
              streams := s.streams.set k (some { st with
                ready := if owed.drop p = PortSet.empty then st.ready.filter fun j => j ≠ i else st.ready
                consumers := st.consumers.map fun c =>
                  if c.port = p then
                    { c with readHolds := c.readHolds + 1, skipped := 0, lastDelivered := some m.sequence }
                  else c })
              leases := if st.readLease = 0 then s.leases
                else insertLease
                  { handle := h, port := p, index := i, kind := .read, deadline := d, marked := false } s.leases
              ports := s.ports.set p { s.port p with
                expired := (s.port p).expired.filter fun x => x ≠ h } }).arbitrate)))

/-- ACQUIRE_READ in a LATEST stream: a VALID fallback when the tracker is STALLED or nothing is ready, else the
ready frame, flagged REPEAT when it is the one given last, else NO_FRAME; with something to give but no room in the
lease table, NO_LEASE.
The lease runs from the end of the execution (the model's choice, log entry 4). -/
def Obligations.AcquireReadGivesTheLatest : Prop :=
  ∀ (s : State) (p : Port) (f : RequestFrame) (t : Time) (k : StreamId) (st : Stream) (e : Consumer)
    (stalled orphaned : Nat), s.Executes p f t → s.InSession p f → f.request = some .acquireRead →
    f.field 0 1 = k.val → s.stream k = some st → (st.phase = .opened ∨ st.phase = .orphaned) →
    st.policy = .latest → st.consumer p = some e → e.readHolds ≠ e.holdLimit →
    stalled = (if (s.tracker k).state = .stalled then 4 else 0) →
    orphaned = (if st.phase = .orphaned then 8 else 0) →
    (∀ (i : RecordId) (a : Assignment) (hold : PortSet) (h : BitVec 16) (d : Time),
      s.fallbackOf k = some i → (s.record i).use = .fallback a hold .valid →
      (s.tracker k).state = .stalled ∨ st.ready = [] →
      h = formHandle .read i (s.record i).generation →
      d = s.timebase + BitVec.ofNat 32 (st.readLease.toNat * 100) →
      (st.readLease ≠ 0 → 128 ≤ s.leases.length →
        exec (.acquireRead p) s = .next (State.respond p f .noLease [] s).arbitrate) ∧
      (s.LeaseRoom st.readLease →
        exec (.acquireRead p) s = .next (State.respond p f .ok
          (bytesOfNat 2 h.toNat ++ bytesOfNat 5 a.base.toNat ++ bytesOfNat 4 a.length.toNat ++
            bytesOfNat 4 0 ++ bytesOfNat 4 0 ++ [BitVec.ofNat 8 (2 + orphaned)] ++ bytesOfNat 2 e.skipped ++
            (if st.readLease = 0 then 0 :: bytesOfNat 4 0 else 1 :: bytesOfNat 4 d.toNat))
          { s with
            records := s.records.set i { s.record i with use := .fallback a (hold.add p) .valid }
            streams := s.streams.set k (some { st with
              consumers := st.consumers.map fun c =>
                if c.port = p then { c with readHolds := c.readHolds + 1, skipped := 0 } else c })
            leases := if st.readLease = 0 then s.leases
              else insertLease
                { handle := h, port := p, index := i, kind := .read, deadline := d, marked := false } s.leases
            ports := s.ports.set p { s.port p with
              expired := (s.port p).expired.filter fun x => x ≠ h } }).arbitrate)) ∧
    ((∀ i, s.fallbackOf k = some i → (s.record i).condition ≠ some .valid ∨
        ((s.tracker k).state ≠ .stalled ∧ st.ready ≠ [])) →
      (st.ready = [] →
        exec (.acquireRead p) s = .next (State.respond p f .noFrame
          (BitVec.ofNat 8 (stalled + orphaned) :: bytesOfNat 2 e.skipped) s).arbitrate) ∧
      (∀ (i : RecordId) (a : Assignment) (m : FrameStamp) (hold : PortSet) (h : BitVec 16) (d : Time),
        st.ready = [i] → (s.record i).use = .frame a (.ready m none hold) →
        (e.lastDelivered = some m.sequence → e.repeatAllowed = false →
          exec (.acquireRead p) s = .next (State.respond p f .noFrame
            (BitVec.ofNat 8 (stalled + orphaned) :: bytesOfNat 2 e.skipped) s).arbitrate) ∧
        (e.lastDelivered ≠ some m.sequence ∨ e.repeatAllowed = true → st.readLease ≠ 0 → 128 ≤ s.leases.length →
          exec (.acquireRead p) s = .next (State.respond p f .noLease [] s).arbitrate) ∧
        (e.lastDelivered ≠ some m.sequence ∨ e.repeatAllowed = true → s.LeaseRoom st.readLease →
          h = formHandle .read i (s.record i).generation →
          d = s.timebase + BitVec.ofNat 32 (st.readLease.toNat * 100) →
          exec (.acquireRead p) s = .next (State.respond p f .ok
            (bytesOfNat 2 h.toNat ++ bytesOfNat 5 a.base.toNat ++ bytesOfNat 4 a.length.toNat ++
              bytesOfNat 4 m.sequence.toNat ++ bytesOfNat 4 m.publishTime.toNat ++
              [BitVec.ofNat 8 ((if e.lastDelivered = some m.sequence then 1 else 0) + stalled + orphaned)] ++
              bytesOfNat 2 e.skipped ++
              (if st.readLease = 0 then 2 :: bytesOfNat 4 0 else 3 :: bytesOfNat 4 d.toNat))
            { s with
              records := s.records.set i { s.record i with use := .frame a (.ready m none (hold.add p)) }
              streams := s.streams.set k (some { st with
                consumers := st.consumers.map fun c =>
                  if c.port = p then
                    { c with readHolds := c.readHolds + 1, skipped := 0, lastDelivered := some m.sequence }
                  else c })
              leases := if st.readLease = 0 then s.leases
                else insertLease
                  { handle := h, port := p, index := i, kind := .read, deadline := d, marked := false } s.leases
              ports := s.ports.set p { s.port p with
                expired := (s.port p).expired.filter fun x => x ≠ h } }).arbitrate)))

/-- RELEASE ends the port's hold and answers with the record's state: a DRAINING record without holders becomes
FREE, and in a CLOSING stream the completion check follows.
The state UNASSIGNED after a close that completes is the model's reading (log entry 15). -/
def Obligations.ReleaseEndsTheHold : Prop :=
  ∀ (s : State) (p : Port) (f : RequestFrame) (t : Time) (i : RecordId) (st : Stream) (k : StreamId) (u v : State),
    s.Executes p f t → s.InSession p f → f.request = some .release →
    f.handle = formHandle .read i (s.record i).generation → (s.record i).heldBy p = true →
    (s.record i).names k = true → s.stream k = some st → st.phase ≠ .preparing →
    u = { s with
      records := s.records.set i ((s.record i).mapHold fun x => x.drop p)
      streams := s.streams.set k (some { st with consumers := st.consumers.map fun c =>
        if c.port = p then { c with readHolds := c.readHolds - 1 } else c })
      leases := removeLease s.timebase f.handle p s.leases } →
    v = State.completionCheck k (match (s.record i).use with
      | .frame _ (.draining _ hold) => if hold.drop p = PortSet.empty then u.becomeFree i k else u
      | _ => u) →
    exec (.release p) s = .next (State.respond p f .ok [(v.record i).stateCode] v).arbitrate ∧
    (v.record i).heldBy p = false

/-- RENEW with a lease moves the entry's deadline to now plus the lease and clears its mark; without a lease it
changes nothing. It answers for a valid handle of either kind.
The lease runs from the end of the execution (the model's choice, log entry 4). -/
def Obligations.RenewMovesTheDeadline : Prop :=
  ∀ (s : State) (p : Port) (f : RequestFrame) (t : Time) (kind : HandleKind) (i : RecordId) (a : Assignment)
    (st : Stream) (units : BitVec 16) (d : Time), s.Executes p f t → s.InSession p f →
    f.request = some .renew → f.handle = formHandle kind i (s.record i).generation →
    (s.record i).assignment = some a → s.stream a.stream = some st → st.phase ≠ .preparing →
    (match kind with | .write => (s.record i).writer = some p | .read => (s.record i).heldBy p = true) →
    units = (match kind with | .write => st.writeLease | .read => st.readLease) →
    d = s.timebase + BitVec.ofNat 32 (units.toNat * 100) →
    (units = 0 → exec (.renew p) s = .next (State.respond p f .ok [0, 0, 0, 0, 0] s).arbitrate) ∧
    (∀ front e back, units ≠ 0 → s.leases = front ++ e :: back →
      (∀ x ∈ front ++ back, ¬(x.handle = f.handle ∧ x.port = p)) → e.handle = f.handle → e.port = p →
      exec (.renew p) s = .next (State.respond p f .ok (1 :: bytesOfNat 4 d.toNat) { s with
        leases := (if e.marked then lookLeases s.timebase else id)
          (insertLease { e with deadline := d, marked := false } (front ++ back)) }).arbitrate)

/-- A 16-bit handle names its kind in bit 15, its index in bits 13 to 8 and its generation in bits 7 to 0; a
value with bit 14 set names nothing, and no such value is formed. The handle step of RELEASE, PUBLISH and DISCARD:
an invalid handle is answered EXPIRED once when the port's expired-handle list holds it, else STALE_HANDLE, and a
valid one of the other kind WRONG_KIND. -/
def Obligations.HandlesAreFormedAndJudged : Prop :=
  (∀ (kind : HandleKind) (i : RecordId) (g : BitVec 8),
    (formHandle kind i g).getLsbD 15 = decide (kind = .read) ∧ (formHandle kind i g).getLsbD 14 = false ∧
    (formHandle kind i g).extractLsb' 8 6 = BitVec.ofNat 6 i.val ∧
    (formHandle kind i g).extractLsb' 0 8 = g ∧ parseHandle (formHandle kind i g) = some (kind, i, g)) ∧
  (∀ h : BitVec 16, h.getLsbD 14 = true → parseHandle h = none) ∧
  formHandle .write 5 7 = 0x0507 ∧ formHandle .read 4 7 = 0x8407 ∧
  (∀ (s : State) (p : Port) (f : RequestFrame) (t : Time) (r : Request) (kind need : HandleKind) (i : RecordId)
    (g : BitVec 8) (a : Assignment) (st : Stream) (valid : Prop), s.Executes p f t → s.InSession p f →
    f.request = some r → parseHandle f.handle = some (kind, i, g) → (s.record i).assignment = some a →
    s.stream a.stream = some st →
    (r = .release ∧ need = .read ∧ st.phase ≠ .preparing ∨
      (r = .publish ∨ r = .discard) ∧ need = .write ∧ st.phase = .opened) →
    (valid ↔ (s.record i).generation = g ∧
      match kind with | .write => (s.record i).writer = some p | .read => (s.record i).heldBy p = true) →
    (¬valid → f.handle ∈ (s.port p).expired →
      exec (f.command p) s = .next (State.respond p f .expired [] (s.setPort p { s.port p with
        expired := (s.port p).expired.filter fun x => x ≠ f.handle })).arbitrate) ∧
    (¬valid → f.handle ∉ (s.port p).expired →
      exec (f.command p) s = .next (State.respond p f .staleHandle [] s).arbitrate) ∧
    (valid → kind ≠ need →
      exec (f.command p) s = .next (State.respond p f .wrongKind [] s).arbitrate))

/-! ## Queries -/

/-- The three queries change nothing but the querying port's slots; the responses of QUERY_DEVICE and QUERY_STREAM
byte by byte (those of QUERY_BUFFER are in `QueryBufferSpellsTheRecord`), and the refusals.
The timebase is read at the end of the execution (the model's choice, log entry 4). -/
def Obligations.QueriesChangeNothing : Prop :=
  ∀ (s : State) (p : Port) (f : RequestFrame) (t : Time), s.Executes p f t → s.InSession p f →
    (f.request = some .queryDevice →
      exec (.queryDevice p) s = .next (State.respond p f .ok
        ([0x4E, 0x12, 6, 16, 64, 128, 8,
          BitVec.ofNat 8 (allRecords.countP fun i => (s.record i).use ≠ .unassigned),
          BitVec.ofNat 8 s.leases.length,
          match s.engine.state with | .quiet => 0 | .standby => 1 | .running _ => 2 | .reporting _ => 3] ++
          bytesOfNat 4 s.timebase.toNat) s).arbitrate) ∧
    (f.request = some .queryBuffer →
      (∀ i : RecordId, f.field 0 1 = i.val →
        exec (.queryBuffer p) s = .next (State.respond p f .ok (s.bufferBytes i) s).arbitrate ∧
        (s.bufferBytes i).length = 29) ∧
      (63 < f.field 0 1 →
        exec (.queryBuffer p) s = .next (State.respond p f .badParameter [] s).arbitrate)) ∧
    (f.request = some .queryStream →
      (∀ (k : StreamId) (st : Stream) (tr : Tracker) (b2 b4 : Nat → List Byte) (yes : Bool → Byte)
        (fixed ready free consumers : List Byte), f.field 0 1 = k.val → s.stream k = some st → s.tracker k = tr →
        b2 = bytesOfNat 2 → b4 = bytesOfNat 4 → yes = (fun b => if b then 1 else 0) →
        fixed =
          [BitVec.ofNat 8 k.val,
            match st.phase with | .preparing => 1 | .opened => 2 | .orphaned => 3 | .closing _ => 4,
            BitVec.ofNat 8 st.producer.val, yes st.producerPresent,
            match st.policy with | .queue => 0 | .latest => 1,
            match st.overflow with | .block => 0 | .dropOldest => 1,
            BitVec.ofNat 8 st.frameCount, BitVec.ofNat 8 st.consumerLimit] ++
          b2 st.writeLease.toNat ++ b2 st.readLease.toNat ++
          [yes st.fallbackPattern.isSome] ++ b4 (st.fallbackPattern.getD 0).toNat ++
          [match s.fallbackOf k with | none => 0xFF | some i => BitVec.ofNat 8 i.val,
            match (s.fallbackOf k).bind fun i => (s.record i).condition with
            | none => 0xFF
            | some .filling => 0
            | some .valid => 1
            | some .invalid => 2,
            yes st.cadence.enable, BitVec.ofNat 8 st.cadence.tolerance, BitVec.ofNat 8 st.cadence.lockCount,
            BitVec.ofNat 8 st.cadence.unlockCount, BitVec.ofNat 8 st.cadence.stallCount,
            match tr.state with | .idle => 0 | .acquiring => 1 | .locked => 2 | .stalled => 3] ++
          b4 (tr.interval.getD 0) ++
          b4 st.nextSequence.toNat ++ b4 st.published.toNat ++ b4 st.dropped.toNat ++
          [yes st.producerWaiting,
            match st.phase with
            | .closing .request => 0
            | .closing .departure => 1
            | .closing .failure => 2
            | _ => 0xFF] →
        ready = BitVec.ofNat 8 st.ready.length :: (st.ready.flatMap fun i =>
          BitVec.ofNat 8 i.val :: b4 (match (s.record i).stamp with | none => 0 | some m => m.sequence.toNat)) →
        free = BitVec.ofNat 8 st.free.length :: st.free.map (fun i => BitVec.ofNat 8 i.val) →
        consumers = BitVec.ofNat 8 st.consumers.length :: (st.consumers.flatMap fun c =>
          [BitVec.ofNat 8 c.port.val, BitVec.ofNat 8 c.holdLimit, yes c.repeatAllowed,
            yes c.lastDelivered.isSome] ++ b4 (c.lastDelivered.getD 0).toNat ++ b2 c.skipped ++
            [BitVec.ofNat 8 c.readHolds]) →
        exec (.queryStream p) s =
          .next (State.respond p f .ok (fixed ++ ready ++ free ++ consumers) s).arbitrate ∧
        fixed.length = 43 ∧ ready.length = 1 + 5 * st.ready.length ∧ free.length = 1 + st.free.length ∧
        consumers.length = 1 + 11 * st.consumers.length) ∧
      ((15 < f.field 0 1 ∨ ∃ k : StreamId, f.field 0 1 = k.val ∧ s.stream k = none) →
        exec (.queryStream p) s = .next (State.respond p f .unknownStream [] s).arbitrate))

/-- QUERY_BUFFER's bytes for a record of every state, with every fill: an absent byte-wide field reads 0xFF, an
absent wider field zeros, and the last byte announces what is present.
An absent set reads 0xFF by the model's reading of R189 (log entry 9). -/
def Obligations.QueryBufferSpellsTheRecord : Prop :=
  ∀ (s : State) (i : RecordId) (g : BitVec 8) (x : FillRef) (view : List Byte),
    view = (match x with
      | .noJob => [0, 0xFF]
      | .named tag => [if s.engine.isHead tag then 2 else 1, tag]
      | .cancelling tag => [3, tag]) →
    (∀ tag, s.engine.isHead tag = true ↔ ∃ j js, s.engine.jobs = j :: js ∧ j.tag = tag ∧
      ((∃ b, s.engine.state = .running b) ∨ ∃ r, s.engine.state = .reporting r)) ∧
    (s.record i = { generation := g, fill := x, use := .unassigned } →
      s.bufferBytes i = [BitVec.ofNat 8 i.val, 0, g] ++ view ++ [0xFF, 0xFF] ++ List.replicate 9 0 ++
        [0xFF] ++ List.replicate 8 0 ++ [0xFF, 0xFF, 0xFF, 0]) ∧
    (∀ (a : Assignment) (fs : FrameState) (head region : List Byte),
      s.record i = { generation := g, fill := x, use := .frame a fs } →
      head = g :: view ++ [BitVec.ofNat 8 a.stream.val, 0] →
      region = bytesOfNat 5 a.base.toNat ++ bytesOfNat 4 a.length.toNat →
      s.bufferBytes i = match fs with
        | .free => [BitVec.ofNat 8 i.val, 1] ++ head ++ region ++ [0xFF] ++ List.replicate 8 0 ++
            [0xFF, 0xFF, 0xFF, 8]
        | .writing p => [BitVec.ofNat 8 i.val, 2] ++ head ++ region ++ [BitVec.ofNat 8 p.val] ++
            List.replicate 8 0 ++ [0xFF, 0xFF, 0xFF, 8]
        | .ready m (some pend) hold => [BitVec.ofNat 8 i.val, 3] ++ head ++ region ++ [0xFF] ++
            bytesOfNat 4 m.sequence.toNat ++ bytesOfNat 4 m.publishTime.toNat ++
            [pend.toByte, hold.toByte, 0xFF, 15]
        | .ready m none hold => [BitVec.ofNat 8 i.val, 3] ++ head ++ region ++ [0xFF] ++
            bytesOfNat 4 m.sequence.toNat ++ bytesOfNat 4 m.publishTime.toNat ++
            [0xFF, hold.toByte, 0xFF, 13]
        | .draining m hold => [BitVec.ofNat 8 i.val, 4] ++ head ++ region ++ [0xFF] ++
            bytesOfNat 4 m.sequence.toNat ++ bytesOfNat 4 m.publishTime.toNat ++
            [0xFF, hold.toByte, 0xFF, 13]
        | .settling => [BitVec.ofNat 8 i.val, 5] ++ head ++ region ++ [0xFF] ++ List.replicate 8 0 ++
            [0xFF, 0xFF, 0xFF, 8]) ∧
    (∀ a hold c (condition : Byte), s.record i = { generation := g, fill := x, use := .fallback a hold c } →
      condition = (match c with | .filling => 0 | .valid => 1 | .invalid => 2) →
      s.bufferBytes i = [BitVec.ofNat 8 i.val, 6, g] ++ view ++ [BitVec.ofNat 8 a.stream.val, 1] ++
        bytesOfNat 5 a.base.toNat ++ bytesOfNat 4 a.length.toNat ++ [0xFF] ++ List.replicate 8 0 ++
        [0xFF, hold.toByte, condition, 12])

/-! ## Reports -/

/-- A taken FRAME_FILL report whose job the record's fill names: on a WRITING record of an OPEN stream the fill
becomes none and the requester is sent FILL_DONE or FILL_FAILED; a SETTLING record becomes FREE and the
completion check follows. A report whose job the fill does not name changes no record. -/
def Obligations.FrameFillReportIsApplied : Prop :=
  ∀ (s : State) (r : FillReport) (t : Time) (a : Assignment) (fs : FrameState) (st : Stream) (u : State),
    s.core = some { item := .fillReport r, takenAt := t } → (s.record r.index).use = .frame a fs →
    s.stream a.stream = some st → u = s.setRecord r.index { s.record r.index with fill := .noJob } →
    (∀ p, r.kind = .frameFill → (s.record r.index).fill = .named r.tag → fs = .writing p → st.phase = .opened →
      (r.outcome = .done → exec .fillReportTaken s = .next (State.arbitrate
        { u.notify r.requester .fillDone a.stream (some (BitVec.ofNat 32 r.tag.toNat)) with core := none })) ∧
      (∀ cause offset, r.outcome = .failed cause offset → exec .fillReportTaken s = .next (State.arbitrate
        { u.notify r.requester .fillFailed a.stream (some (BitVec.ofNat 32
            ((match cause with | .error => 1 | .timeout => 2) * 16777216 + offset.toNat))) with core := none }))) ∧
    (r.kind = .frameFill → (s.record r.index).fill = .cancelling r.tag → fs = .settling →
      exec .fillReportTaken s = .next (State.arbitrate
        { (u.becomeFree r.index a.stream).completionCheck a.stream with core := none })) ∧
    ((s.record r.index).fill.namesTag r.tag = false →
      exec .fillReportTaken s = .next (State.arbitrate { s.completionCheck a.stream with core := none }))

/-- A taken FALLBACK_FILL report whose job the fallback's fill names, by the stream's state: the open's fill makes
the stream OPEN or fails it; a refill makes the fallback VALID or INVALID; in CLOSING only the fill is cleared. -/
def Obligations.FallbackFillReportIsApplied : Prop :=
  ∀ (s : State) (r : FillReport) (t : Time) (a : Assignment) (hold : PortSet) (c : FallbackCondition)
    (st : Stream) (u valid invalid : State),
    s.core = some { item := .fillReport r, takenAt := t } → (s.record r.index).use = .fallback a hold c →
    r.kind = .fallbackFill → (s.record r.index).fill.namesTag r.tag = true → s.stream a.stream = some st →
    u = s.setRecord r.index { s.record r.index with fill := .noJob } →
    valid = s.setRecord r.index
      { generation := (s.record r.index).generation + 1, fill := .noJob, use := .fallback a hold .valid } →
    invalid = s.setRecord r.index { s.record r.index with fill := .noJob, use := .fallback a hold .invalid } →
    (st.phase = .preparing →
      (r.outcome = .done → exec .fillReportTaken s = .next (State.arbitrate
        { (valid.setStream a.stream (some { st with phase := .opened })).notify st.producer .streamReady a.stream
            none with core := none })) ∧
      (∀ cause offset, r.outcome = .failed cause offset → exec .fillReportTaken s = .next (State.arbitrate
        { ((invalid.notify st.producer .openFailed a.stream (some (BitVec.ofNat 32
              ((match cause with | .error => 1 | .timeout => 2) * 16777216 + offset.toNat)))).enterClosing
            a.stream .failure).completionCheck a.stream with core := none }))) ∧
    (st.phase = .opened ∨ st.phase = .orphaned →
      (r.outcome = .done → exec .fillReportTaken s = .next (State.arbitrate
        { (if r.requester = st.producer ∧ st.producerPresent = true then
            valid.notify r.requester .fillDone a.stream (some (BitVec.ofNat 32 r.tag.toNat))
          else valid) with core := none })) ∧
      (∀ cause offset, r.outcome = .failed cause offset → exec .fillReportTaken s = .next (State.arbitrate
        { (if r.requester = st.producer ∧ st.producerPresent = true then
            invalid.notify r.requester .fillFailed a.stream (some (BitVec.ofNat 32
              ((match cause with | .error => 1 | .timeout => 2) * 16777216 + offset.toNat)))
          else invalid) with core := none }))) ∧
    (∀ o, st.phase = .closing o →
      exec .fillReportTaken s = .next (State.arbitrate { u.completionCheck a.stream with core := none }))

/-- A taken lease expiry reclaims the right and records it: a WRITE expiry ends the write handle as DISCARD does
from item 2 on, a READ expiry ends the hold as RELEASE does without touching the table; the handle joins the
port's expired-handle list, at most 8 long, and the notice follows.
That the entry left the table at the grant already is the model's reading of R150 (log entry 17). -/
def Obligations.ExpiryReclaimsAndRecords : Prop :=
  ∀ (s : State) (e : LeaseEntry) (t : Time) (a : Assignment) (u : State),
    s.core = some { item := .leaseExpiry e, takenAt := t } → (s.record e.index).assignment = some a →
    (u = (if e.kind = .write then s.endWriting e.index a.stream
      else (s.endHold e.index e.port a.stream).completionCheck a.stream)) →
    (e.kind = .write → (s.record e.index).writer = some e.port →
      exec .writeExpiryTaken s = .next (State.arbitrate
        { (u.setPort e.port { u.port e.port with
            expired := (if (u.port e.port).expired.length < 8 then (u.port e.port).expired
              else (u.port e.port).expired.drop 1) ++ [e.handle] }).notify e.port .writeLeaseExpired a.stream
            (some (BitVec.ofNat 32 e.handle.toNat)) with core := none })) ∧
    (e.kind = .read →
      exec .readExpiryTaken s = .next (State.arbitrate
        { (u.setPort e.port { u.port e.port with
            expired := (if (u.port e.port).expired.length < 8 then (u.port e.port).expired
              else (u.port e.port).expired.drop 1) ++ [e.handle] }).notify e.port .readLeaseExpired a.stream
            (some (BitVec.ofNat 32 e.handle.toNat)) with core := none }))

/-- A taken cadence report goes to the producer and then to each consumer: FRAME_LATE when the late count is not
0, then the notice of the state change, with the time of the take.
The report and R are read at the grant (the model's reading, log entry 17), and the notices carry the time of the
grant (the model's choice, log entry 4). -/
def Obligations.CadenceReportIsSent : Prop :=
  ∀ (s : State) (k : StreamId) (late : Nat) (change : Option StateChange) (interval : Option Nat) (t : Time)
    (st : Stream), s.core = some { item := .cadenceReport k late change interval, takenAt := t } →
    s.stream k = some st →
    exec (.cadenceReportTaken k) s = .next (State.arbitrate
      { (st.producer :: st.consumers.map Consumer.port).foldl (fun v p =>
          (match change with
            | none => id
            | some .locked => State.notifyAt t p .cadenceLocked k (interval.map (BitVec.ofNat 32))
            | some .lost => State.notifyAt t p .cadenceLost k none
            | some .stalled => State.notifyAt t p .producerStalled k none
            | some .resumed => State.notifyAt t p .producerResumed k none)
          (if late = 0 then v else v.notifyAt t p .frameLate k (some (BitVec.ofNat 32 late)))) s
        with core := none })

/-! ## Leases, cadence, fill engine, notices -/

/-- The lease timer: a due head is marked when no entry is marked; an entry goes in behind every entry with an
earlier or equal deadline; removing a marked entry lets the timer look again.
That the command does nothing when no head is due, an entry is marked or the table is empty is the model's choice
(log entry 1). -/
def Obligations.LeaseTimerMarksAndPlacesEntries : Prop :=
  (∀ (s : State) (e : LeaseEntry) (rest : List LeaseEntry), s.leases = e :: rest →
    (∀ x ∈ s.leases, x.marked = false) →
    ((s.timebase - e.deadline).toNat < 2 ^ 31 → exec .leaseDeadlineReached s =
      .next { s with leases := { e with marked := true } :: rest }.arbitrate) ∧
    (2 ^ 31 ≤ (s.timebase - e.deadline).toNat → exec .leaseDeadlineReached s = .next s)) ∧
  (∀ s : State, s.leases = [] ∨ (∃ x ∈ s.leases, x.marked = true) → exec .leaseDeadlineReached s = .next s) ∧
  (∀ (e : LeaseEntry) (table : List LeaseEntry), ∃ front back, table = front ++ back ∧
    insertLease e table = front ++ e :: back ∧
    (∀ x ∈ front, (e.deadline - x.deadline).toNat < 2 ^ 31) ∧
    ∀ x xs, back = x :: xs → 2 ^ 31 ≤ (e.deadline - x.deadline).toNat) ∧
  (∀ (now : Time) (h : BitVec 16) (p : Port) (table : List LeaseEntry),
    ∃ rest : List LeaseEntry, rest = table.filter (fun x => ¬(x.handle = h ∧ x.port = p)) ∧
      removeLease now h p table =
        if ∃ x ∈ table, x.handle = h ∧ x.port = p ∧ x.marked = true then lookLeases now rest else rest)

/-- A watch deadline that passes counts a miss: below the stall count the late count rises, to at most 15, and
the deadline moves by R; at the stall count the tracker is STALLED.
That the command does nothing before the deadline is the model's choice (log entry 1). -/
def Obligations.WatchDeadlineCountsAMiss : Prop :=
  ∀ (s : State) (k : StreamId) (tr : Tracker) (d : Time) (r : Nat), s.tracker k = tr →
    tr.state = .locked → tr.watch = some d → tr.interval = some r →
    ((s.timebase - d).toNat < 2 ^ 31 →
      (tr.missCounter + 1 < tr.params.stallCount →
        exec (.watchDeadlineReached k) s = .next (s.setTracker k { tr with
          missCounter := tr.missCounter + 1, late := min 15 (tr.late + 1)
          watch := some (d + BitVec.ofNat 32 r) }).arbitrate) ∧
      (tr.params.stallCount ≤ tr.missCounter + 1 →
        exec (.watchDeadlineReached k) s = .next (s.setTracker k { tr with
          state := .stalled, missCounter := tr.missCounter + 1, watch := none
          change := some .stalled }).arbitrate)) ∧
    (2 ^ 31 ≤ (s.timebase - d).toNat → exec (.watchDeadlineReached k) s = .next s)

/-- What a publication does to a tracker, in each state and by the interval it measures. -/
def Obligations.PublicationMovesTheTracker : Prop :=
  ∀ (tr : Tracker) (now : Time),
    (tr.params.enable = false → tr.publication now = tr) ∧
    (tr.params.enable = true →
      (tr.state = .idle → tr.publication now =
        { tr with state := .acquiring, interval := none, lockCounter := 0, lastPublish := some now }) ∧
      (tr.state = .stalled → tr.publication now =
        { tr with state := .acquiring, lastPublish := some now, lockCounter := 0, unlockCounter := 0
                  missCounter := 0, watch := none, change := some .resumed }) ∧
      (∀ last i, tr.lastPublish = some last → i = (now - last).toNat →
        (tr.state = .acquiring → 0 < tr.params.lockCount →
          (i < 500 ∨ 2000000 < i → tr.publication now =
            { tr with interval := none, lockCounter := 0, lastPublish := some now }) ∧
          (500 ≤ i → i ≤ 2000000 →
            (tr.interval = none → tr.publication now =
              { tr with interval := some i, lockCounter := 0, lastPublish := some now }) ∧
            (∀ r, tr.interval = some r →
              (tr.params.tolerance * r / 64 < max (i - r) (r - i) → tr.publication now =
                { tr with interval := some i, lockCounter := 0, lastPublish := some now }) ∧
              (max (i - r) (r - i) ≤ tr.params.tolerance * r / 64 →
                (tr.lockCounter + 1 ≠ tr.params.lockCount → tr.publication now =
                  { tr with interval := some ((3 * r + i) / 4), lockCounter := tr.lockCounter + 1
                            lastPublish := some now }) ∧
                (tr.lockCounter + 1 = tr.params.lockCount → ∀ r', r' = (3 * r + i) / 4 → tr.publication now =
                  { tr with state := .locked, interval := some r', lockCounter := tr.lockCounter + 1
                            lastPublish := some now, unlockCounter := 0, missCounter := 0
                            watch := some (now + BitVec.ofNat 32 (r' + tr.params.tolerance * r' / 64))
                            change := some .locked }))))) ∧
        (∀ r, tr.state = .locked → tr.interval = some r →
          (500 ≤ i → i ≤ 2000000 → max (i - r) (r - i) ≤ tr.params.tolerance * r / 64 →
            ∀ r', r' = (7 * r + i) / 8 → tr.publication now =
              { tr with missCounter := 0, unlockCounter := 0, interval := some r', lastPublish := some now
                        watch := some (now + BitVec.ofNat 32 (r' + tr.params.tolerance * r' / 64)) }) ∧
          (i < 500 ∨ 2000000 < i ∨ tr.params.tolerance * r / 64 < max (i - r) (r - i) →
            (tr.unlockCounter + 1 < tr.params.unlockCount → tr.publication now =
              { tr with missCounter := 0, unlockCounter := tr.unlockCounter + 1, lastPublish := some now
                        watch := some (now + BitVec.ofNat 32 (r + tr.params.tolerance * r / 64)) }) ∧
            (tr.params.unlockCount ≤ tr.unlockCounter + 1 → tr.publication now =
              { tr with state := .acquiring
                        interval := if 500 ≤ i ∧ i ≤ 2000000 then some i else none
                        lastPublish := some now, lockCounter := 0, unlockCounter := 0, missCounter := 0
                        watch := none, change := some .lost })))))

/-- The end of a burst, by a matching response or by its timeout: a flagged job ends CANCELLED, a failed burst
ends it FAILED with cause and offset, a completed region ends it DONE, and otherwise the next burst is issued.
A response that does not match changes nothing.
That BURST_TIMEOUT changes nothing while the burst is in time is the model's choice (log entry 1), and so is what a
response makes of a burst that FAREADY has not accepted (log entry 19). The end of a job at the top of the address
space is 0 (the model's reading, log entry 10). -/
def Obligations.BurstEndDecidesTheJob : Prop :=
  ∀ (s : State) (tag : BitVec 4),
    ((∀ b, s.engine.state = .running b → b.tag ≠ tag) →
      ∀ error, exec (.fillResponse tag error) s = .next s) ∧
    (∀ b, s.engine.state = .running b → 2 ^ 31 ≤ (s.timebase - (b.issuedAt + 64)).toNat →
      exec .burstTimeout s = .next s) ∧
    (∀ b j js (offset : BitVec 24), s.engine.state = .running b → s.engine.jobs = j :: js →
      offset = ((b.address - (s.record j.index).base) >>> 8).setWidth 24 →
      ∀ report : FillOutcome → EngineState, report = (fun o => .reporting
        { tag := j.tag, index := j.index, kind := j.kind, requester := j.requester, outcome := o }) →
      (b.tag = tag →
        exec (.fillResponse tag true) s = .next (State.arbitrate (s.setEngine { s.engine with
          state := report (if j.cancel then .cancelled else .failed .error offset) })) ∧
        (∀ j', j' = { j with next := j.next + 256 } →
          (j.cancel = true → exec (.fillResponse tag false) s = .next (State.arbitrate (s.setEngine
            { s.engine with jobs := j' :: js, state := report .cancelled }))) ∧
          (j.cancel = false → j.next + 256 = j.stop → exec (.fillResponse tag false) s =
            .next (State.arbitrate (s.setEngine { s.engine with jobs := j' :: js, state := report .done }))) ∧
          (j.cancel = false → j.next + 256 ≠ j.stop → exec (.fillResponse tag false) s =
            .next (State.arbitrate (s.setEngine { s.engine with
              jobs := j' :: js
              state := .running { address := j.next + 256, tag := s.engine.burstCounter
                                  issuedAt := s.timebase, accepted := false }
              burstCounter := s.engine.burstCounter + 1 }))))) ∧
      ((s.timebase - (b.issuedAt + 64)).toNat < 2 ^ 31 →
        exec .burstTimeout s = .next (State.arbitrate (s.setEngine { s.engine with
          state := report (if j.cancel then .cancelled else .failed .timeout offset) }))))

/-- The starts of a job: at the end of QUIET, 1,000 µs after reset release, and at a submission in STANDBY. The
first burst goes to the job's start with the next burst tag; elsewhere a submitted job waits at the tail.
That a job submitted in STANDBY starts in the submitting event is the model's reading of R133 (log entry 7); that
QUIET_END does nothing before 1,000 µs is its choice (log entry 1). -/
def Obligations.JobsStartFromQuietAndStandby : Prop :=
  (∀ s : State, s.engine.state = .quiet → s.resetAsserted = false →
    ((s.timebase - 1000).toNat < 2 ^ 31 →
      (s.engine.jobs = [] → exec .quietEnd s = .next (s.setEngine { s.engine with state := .standby })) ∧
      (∀ j js, s.engine.jobs = j :: js → exec .quietEnd s = .next (s.setEngine { s.engine with
        jobs := { j with next := j.start } :: js
        state := .running { address := j.start, tag := s.engine.burstCounter, issuedAt := s.timebase
                            accepted := false }
        burstCounter := s.engine.burstCounter + 1 }))) ∧
    (2 ^ 31 ≤ (s.timebase - 1000).toNat → exec .quietEnd s = .next s)) ∧
  (∀ (e : FillEngine) (now : Time) (o : FillOrder) (j : FillJob), e.jobs.length < 8 →
    j = { tag := e.nextTag, index := o.index, kind := o.kind, requester := o.requester, pattern := o.pattern
          start := o.start, stop := o.stop, next := o.start, cancel := false } →
    (∀ x ∈ e.jobs, x.tag ≠ e.nextTag) ∧ ((∀ x ∈ e.jobs, x.tag ≠ e.tagCounter) → e.nextTag = e.tagCounter) ∧
    (e.state ≠ .standby → e.submit now o =
      { e with jobs := e.jobs ++ [j], tagCounter := e.nextTag + 1 }) ∧
    (e.state = .standby → e.jobs = [] → e.submit now o =
      { state := .running { address := o.start, tag := e.burstCounter, issuedAt := now, accepted := false }
        jobs := [j], tagCounter := e.nextTag + 1, burstCounter := e.burstCounter + 1 }))

/-- BURST_ACCEPTED lowers FAVALID for the burst in flight and sends its 32 beats of the job's pattern, the most
significant byte at the lowest address; it happens once to a burst.
The beats in address order, all at acceptance, and that the command does nothing when the burst was accepted
before, are the model's choices (log entries 11 and 1). -/
def Obligations.AcceptedBurstSendsThePattern : Prop :=
  ∀ (s : State) (b : Burst) (j : FillJob) (js : List FillJob), s.engine.state = .running b →
    s.engine.jobs = j :: js →
    (b.accepted = false → ∃ u beats,
      exec .burstAccepted s = .next u ∧
      u = { s with
        engine := { s.engine with state := .running { b with accepted := true } }
        fillBeats := some { address := b.address, tag := b.tag, beats := beats } } ∧
      s.engine.favalid = true ∧ u.engine.favalid = false ∧ beats.length = 32 ∧ beats.flatten.length = 256 ∧
      ∀ n, n < 256 → beats.flatten[n]? =
        some ((j.pattern >>> (24 - 8 * (n % 4))).setWidth 8)) ∧
    (b.accepted = true → exec .burstAccepted s = .next s)

/-- A cancel request: MARKED for the active job, ENDED for the ended one, REMOVED for a waiting one.
That a tag no job of the queue has is answered REMOVED too is the model's choice (log entry 14). -/
def Obligations.CancelAnswersByThePlace : Prop :=
  ∀ (e : FillEngine) (j : FillJob) (js : List FillJob), e.jobs = j :: js →
    ((∃ b, e.state = .running b) → e.cancel j.tag = (.marked, { e with jobs := { j with cancel := true } :: js })) ∧
    ((∃ r, e.state = .reporting r) → e.cancel j.tag = (.ended, e)) ∧
    (∀ tag, tag ≠ j.tag ∨ e.state = .quiet →
      e.cancel tag = (.removed, { e with jobs := e.jobs.filter fun x => x.tag ≠ tag }))

/-- Enqueueing a notice: discarded at a RESETTING port, suppressed by the mask, coalesced into a record of its
kind and stream, appended while fewer than 31 ordinary records stand, and else counted in OVERFLOW. What coalesces
into the head while a NOTICE has it in transfer, and a loss counted in an OVERFLOW record in transfer, is tallied:
the tally rises to at most 255, and the late counts or the losses are summed. -/
def Obligations.NoticesCoalesceAppendOrOverflow : Prop :=
  ∀ (q : AgentPort) (kind : NoticeKind) (k : StreamId) (detail : Option (BitVec 32)) (now : Time)
    (tallied : List Notice → (BitVec 32 → BitVec 32) → Option Transaction),
    kind ≠ .overflow →
    (∀ front add, tallied front add = match front, q.transaction with
      | [], some (.notice copy true tally sum) => some (.notice copy true (min 255 (tally + 1)) (add sum))
      | _, x => x) →
    (q.state = .resetting ∨ q.mask.getLsbD kind.code.toNat = false → q.enqueue kind k detail now = q) ∧
    (q.state ≠ .resetting → q.mask.getLsbD kind.code.toNat = true →
      (∀ front n back, q.notices = front ++ n :: back →
        (∀ x ∈ front, ¬(x.kind = kind ∧ x.stream = some k)) → n.kind = kind → n.stream = some k →
        q.enqueue kind k detail now = { q with
          transaction := tallied front fun sum =>
            if kind = .frameLate then addHeld sum (detail.getD 0) else sum
          notices := front ++
            { n with count := min 255 (n.count + 1), time := now
                     detail := if kind = .frameLate then
                       some (addHeld (n.detail.getD 0) (detail.getD 0)) else detail } :: back }) ∧
      ((∀ x ∈ q.notices, ¬(x.kind = kind ∧ x.stream = some k)) →
        ((q.notices.countP fun x => x.kind ≠ .overflow) < 31 → q.enqueue kind k detail now =
          { q with notices := q.notices ++
              [{ kind := kind, stream := some k, count := 1, time := now, detail := detail }] }) ∧
        (31 ≤ (q.notices.countP fun x => x.kind ≠ .overflow) →
          ((∀ x ∈ q.notices, x.kind ≠ .overflow) → q.enqueue kind k detail now =
            { q with notices := q.notices ++
                [{ kind := .overflow, stream := none, count := 1, time := now, detail := some 1 }] }) ∧
          (∀ front n back, q.notices = front ++ n :: back → (∀ x ∈ front, x.kind ≠ .overflow) →
            n.kind = .overflow → q.enqueue kind k detail now = { q with
              transaction := tallied front fun sum => addHeld sum 1
              notices := front ++
                { n with count := min 255 (n.count + 1), time := now
                         detail := some (addHeld (n.detail.getD 0) 1) } :: back }))))

/-! ## Invariants of every step -/

/-- The reset state meets every invariant below. -/
def Obligations.ResetMeetsTheInvariants : Prop :=
  State.reset.WithinCapacities ∧ State.reset.RegionsDisjoint ∧ State.reset.engine.Coherent ∧
    State.reset.SlotsExclusive ∧ State.reset.SessionsLegal ∧ State.reset.ArbiterSettled

/-- Every step keeps the capacities: 128 leases, 8 jobs, 31 ordinary notices with one OVERFLOW, 8 expired handles. -/
def Obligations.StepsKeepCapacities : Prop :=
  ∀ s u : State, s.WithinCapacities → step s = .next u → u.WithinCapacities

/-- Every step keeps the regions of assigned records free of overlap. -/
def Obligations.StepsKeepRegionsDisjoint : Prop :=
  ∀ s u : State, s.RegionsDisjoint → step s = .next u → u.RegionsDisjoint

/-- Every step keeps the fill engine coherent: its state, queue and report agree and job tags differ. -/
def Obligations.StepsKeepTheEngineCoherent : Prop :=
  ∀ s u : State, s.engine.Coherent → step s = .next u → u.engine.Coherent

/-- Every step keeps the two slots of a port exclusive. -/
def Obligations.StepsKeepSlotsExclusive : Prop :=
  ∀ s u : State, s.SlotsExclusive → step s = .next u → u.SlotsExclusive

/-- Every step keeps a session in force exactly where the port's state says so, with a number other than 0. -/
def Obligations.StepsKeepSessionsLegal : Prop :=
  ∀ s u : State, s.SessionsLegal → step s = .next u → u.SessionsLegal

/-- Every step leaves the arbiter settled: a free core means that nothing is presented.
That the grant happens in the presenting or freeing event is the model's reading of R151 (log entry 3). -/
def Obligations.StepsLeaveTheArbiterSettled : Prop :=
  ∀ s u : State, s.ArbiterSettled → step s = .next u → u.ArbiterSettled

end Slice0Obligations
end

