-- ==== Sys2Proof/Laws/FillEngine.lean ====
section
/-! SUPPORT. The fill engine stays coherent under every one of its operations, and its tags stay distinct
(R131–R140). -/

namespace Sys2Proof.Machine

/-! ## Tags (R131) -/

/-- A search that ends before its bound ends at a tag no job has; one that does not has met a job at every value. -/
theorem freshTag_spec (jobs : List FillJob) (n : Nat) (c : BitVec 8) :
    (∀ j ∈ jobs, j.tag ≠ freshTag jobs n c) ∨ ∀ m < n, ∃ j ∈ jobs, j.tag = c + BitVec.ofNat 8 m := by
  induction n generalizing c with
  | zero => exact .inr fun m h => absurd h (Nat.not_lt_zero m)
  | succ n ih =>
    simp only [freshTag]
    split
    · rename_i hc
      rcases ih (c + 1) with h | h
      · exact .inl h
      · refine .inr fun m hm => ?_
        cases m with
        | zero => simpa using hc
        | succ m =>
          obtain ⟨j, hj, ht⟩ := h m (by omega)
          refine ⟨j, hj, ht.trans ?_⟩
          apply BitVec.eq_of_toNat_eq
          simp
          omega
    · rename_i hc
      exact .inl (by simpa using hc)

/-- With at most 8 jobs the next tag is that of no job. -/
theorem FillEngine.nextTag_fresh (e : FillEngine) (h : e.jobs.length ≤ 8) : ∀ j ∈ e.jobs, j.tag ≠ e.nextTag := by
  rcases freshTag_spec e.jobs 255 e.tagCounter with h' | h'
  · exact h'
  · exfalso
    have hsub : (List.range 255).map (fun m => e.tagCounter + BitVec.ofNat 8 m) ⊆ e.jobs.map FillJob.tag := by
      intro x hx
      simp only [List.mem_map, List.mem_range] at hx ⊢
      obtain ⟨m, hm, rfl⟩ := hx
      exact h' m hm
    have hnd : ((List.range 255).map fun m => e.tagCounter + BitVec.ofNat 8 m).Nodup := by
      refine List.Nodup.map_on (fun x hx y hy hxy => ?_) List.nodup_range
      have hx := List.mem_range.1 hx
      have hy := List.mem_range.1 hy
      have := congrArg BitVec.toNat hxy
      simp at this
      omega
    have hl := (hnd.subperm hsub).length_le
    simp at hl
    omega

/-! ## Coherence -/

theorem FillEngine.Coherent.reset : FillEngine.reset.Coherent := by
  simp [FillEngine.Coherent, FillEngine.reset]

/-- Starting the head keeps the engine coherent. -/
theorem FillEngine.startHead_coherent (now : Time) (e : FillEngine) (hn : (e.jobs.map FillJob.tag).Nodup)
    (hl : e.jobs.length ≤ 8) : (e.startHead now).Coherent := by
  unfold FillEngine.startHead
  split
  · rename_i h
    simp [FillEngine.Coherent, h]
  · rename_i j js h
    rw [h] at hn hl
    exact ⟨by simpa [FillEngine.issue] using hn, by simpa [FillEngine.issue] using hl, _, _, rfl, rfl⟩

/-- Submitting a job to a queue that is not full keeps the engine coherent (R131, R133). -/
theorem FillEngine.submit_coherent (now : Time) (o : FillOrder) (e : FillEngine) (h : e.Coherent)
    (hroom : e.jobs.length < 8) : (e.submit now o).Coherent := by
  obtain ⟨hn, hl, hs⟩ := h
  have hfresh := e.nextTag_fresh hl
  have hn' : ((e.jobs ++ [o.job e.nextTag]).map FillJob.tag).Nodup := by
    simp only [List.map_append, List.map_cons, List.map_nil]
    refine List.Nodup.append hn (List.nodup_singleton _) ?_
    simpa [List.disjoint_singleton, FillOrder.job] using hfresh
  have hl' : (e.jobs ++ [o.job e.nextTag]).length ≤ 8 := by
    simp
    omega
  unfold FillEngine.submit
  cases hst : e.state with
  | standby => exact FillEngine.startHead_coherent now _ hn' hl'
  | quiet => exact ⟨hn', hl', trivial⟩
  | running b =>
    rw [hst] at hs
    obtain ⟨j, js, hj, hb⟩ := hs
    exact ⟨hn', hl', j, js ++ [o.job e.nextTag], by simp [hj], hb⟩
  | reporting r =>
    rw [hst] at hs
    obtain ⟨j, js, hj, hb⟩ := hs
    exact ⟨hn', hl', j, js ++ [o.job e.nextTag], by simp [hj], hb⟩

/-- A cancel request keeps the engine coherent (R139). -/
theorem FillEngine.cancel_coherent (tag : BitVec 8) (e : FillEngine) (h : e.Coherent) :
    (e.cancel tag).2.Coherent := by
  obtain ⟨hn, hl, hs⟩ := h
  unfold FillEngine.cancel
  split
  · cases hst : e.state with
    | running b =>
      rw [hst] at hs
      obtain ⟨j, js, hj, hb⟩ := hs
      simp only [hj] at hn hl ⊢
      exact ⟨by simpa using hn, by simpa using hl, _, _, rfl, hb⟩
    | quiet => exact ⟨hn, hl, hs⟩
    | standby => exact ⟨hn, hl, hs⟩
    | reporting r => exact ⟨hn, hl, hs⟩
  · rename_i hh
    refine ⟨hn.sublist (List.Sublist.map _ List.filter_sublist), (List.length_filter_le _ _).trans hl, ?_⟩
    cases hst : e.state with
    | quiet => trivial
    | standby =>
      rw [hst] at hs
      simp [show e.jobs = [] from hs]
    | running b =>
      rw [hst] at hs
      obtain ⟨j, js, hj, hb⟩ := hs
      have : j.tag ≠ tag := by simpa [FillEngine.isHead, FillEngine.headStarted, hst, hj] using hh
      exact ⟨j, js.filter fun j => decide (j.tag ≠ tag), by simp [hj, this], hb⟩
    | reporting r =>
      rw [hst] at hs
      obtain ⟨j, js, hj, hb⟩ := hs
      have : j.tag ≠ tag := by simpa [FillEngine.isHead, FillEngine.headStarted, hst, hj] using hh
      exact ⟨j, js.filter fun j => decide (j.tag ≠ tag), by simp [hj, this], hb⟩

/-- A cancel request adds no job (R139). -/
theorem FillEngine.cancel_jobs_length (tag : BitVec 8) (e : FillEngine) :
    (e.cancel tag).2.jobs.length ≤ e.jobs.length := by
  unfold FillEngine.cancel
  split
  · split
    · simp
    · exact le_rfl
  · exact List.length_filter_le _ _

/-- A cancel request forms no report and takes none away (R138, R139). -/
theorem FillEngine.cancel_state (tag : BitVec 8) (e : FillEngine) : (e.cancel tag).2.state = e.state := by
  unfold FillEngine.cancel
  split
  · split <;> rfl
  · rfl

/-- The end of a burst keeps the engine coherent (R136–R138). -/
theorem FillEngine.endBurst_coherent (now : Time) (base : Address) (how : BurstEnd) (e : FillEngine)
    (h : e.Coherent) : (e.endBurst now base how).Coherent := by
  obtain ⟨hn, hl, hs⟩ := h
  unfold FillEngine.endBurst
  split
  · rename_i b j js hst hj
    have key : ∀ j' : FillJob, j'.tag = j.tag → j'.index = j.index → j'.kind = j.kind →
        ((j' :: js).map FillJob.tag).Nodup ∧ (j' :: js).length ≤ 8 := by
      intro j' h1 _ _
      rw [hj] at hn hl
      exact ⟨by simpa [h1] using hn, by simpa using hl⟩
    cases how with
    | ok =>
      have k := key { j with next := j.next + Config.burstBytes } rfl rfl rfl
      simp only
      split
      · exact ⟨k.1, k.2, _, _, rfl, rfl, rfl, rfl⟩
      · split
        · exact ⟨k.1, k.2, _, _, rfl, rfl, rfl, rfl⟩
        · exact ⟨k.1, k.2, _, _, rfl, rfl⟩
    | failed cause =>
      have k := key j rfl rfl rfl
      simp only
      split <;> exact ⟨k.1, k.2, _, _, rfl, rfl, rfl, rfl⟩
  · exact ⟨hn, hl, hs⟩

/-- The end of a burst keeps the number of jobs (R136–R138). -/
theorem FillEngine.endBurst_jobs_length (now : Time) (base : Address) (how : BurstEnd) (e : FillEngine) :
    (e.endBurst now base how).jobs.length = e.jobs.length := by
  unfold FillEngine.endBurst
  split
  · rename_i b j js hst hj
    rw [hj]
    cases how <;> simp only <;> repeat (first | rfl | split)
  · rfl

/-- Taking the report keeps the engine coherent (R140). -/
theorem FillEngine.takeReport_coherent (now : Time) (e : FillEngine) (h : e.Coherent) :
    (e.takeReport now).Coherent :=
  FillEngine.startHead_coherent now _ (h.1.sublist ((List.drop_sublist 1 _).map _))
    ((List.drop_sublist 1 _).length_le.trans h.2.1)

/-- Starting the head keeps the number of jobs (R133). -/
theorem FillEngine.startHead_jobs_length (now : Time) (e : FillEngine) :
    (e.startHead now).jobs.length = e.jobs.length := by
  unfold FillEngine.startHead
  split
  · rfl
  · rename_i h
    simp [FillEngine.issue, h]

/-- A submission adds one job (R131). -/
theorem FillEngine.submit_jobs_length (now : Time) (o : FillOrder) (e : FillEngine) :
    (e.submit now o).jobs.length = e.jobs.length + 1 := by
  unfold FillEngine.submit
  split
  · rw [FillEngine.startHead_jobs_length]
    simp
  · simp

end Sys2Proof.Machine
end

