-- ==== Sys2Proof/Laws/Leases.lean ====
section
/-! SUPPORT. The lease table: what each of its operations does to its length, its order and its marks
(R95–R102). -/

namespace Sys2Proof.Machine

/-- Placing an entry adds it, behind every entry with an earlier or equal deadline (R98). -/
theorem insertLease_spec (e : LeaseEntry) (t : List LeaseEntry) : ∃ front back, t = front ++ back ∧
    insertLease e t = front ++ e :: back ∧ (∀ x ∈ front, notLater x.deadline e.deadline = true) ∧
    ∀ x xs, back = x :: xs → notLater x.deadline e.deadline = false := by
  induction t with
  | nil => exact ⟨[], [], rfl, rfl, by simp, by simp⟩
  | cons x t ih =>
    by_cases h : notLater x.deadline e.deadline
    · obtain ⟨front, back, ht, hi, hf, hb⟩ := ih
      refine ⟨x :: front, back, by rw [ht]; rfl, by simp [insertLease, h, hi], ?_, hb⟩
      simpa [h] using hf
    · refine ⟨[], x :: t, rfl, by simp [insertLease, h], by simp, ?_⟩
      rintro y ys ⟨⟩
      simpa using h

theorem insertLease_length (e : LeaseEntry) (t : List LeaseEntry) :
    (insertLease e t).length = t.length + 1 := by
  obtain ⟨front, back, rfl, h, -⟩ := insertLease_spec e t
  rw [h]
  simp
  omega

/-- A new entry is not marked, so placing it presents nothing (R98, R102). -/
theorem insertLease_any_marked (e : LeaseEntry) (he : e.marked = false) (t : List LeaseEntry) :
    (insertLease e t).any LeaseEntry.marked = t.any LeaseEntry.marked := by
  obtain ⟨front, back, rfl, h, -⟩ := insertLease_spec e t
  simp [h, he]

theorem lookLeases_length (now : Time) (t : List LeaseEntry) : (lookLeases now t).length = t.length := by
  unfold lookLeases
  split
  · rfl
  · split
    · rfl
    · split <;> rfl

theorem removeLease_length_le (now : Time) (h : BitVec 16) (p : Port) (t : List LeaseEntry) :
    (removeLease now h p t).length ≤ t.length := by
  unfold removeLease
  split
  · rw [lookLeases_length]
    exact List.length_filter_le _ _
  · exact List.length_filter_le _ _

theorem LeaseEntry.isOf_iff (h : BitVec 16) (p : Port) (e : LeaseEntry) :
    e.isOf h p = true ↔ e.handle = h ∧ e.port = p := by
  simp [LeaseEntry.isOf]

/-- Renewing replaces one entry by another (R101). -/
theorem renewLease_length_le (now : Time) (h : BitVec 16) (p : Port) (d : Time) (t : List LeaseEntry) :
    (renewLease now h p d t).length ≤ t.length := by
  unfold renewLease
  split
  · exact le_rfl
  · rename_i e he
    have hlt : (t.filter fun x => !x.isOf h p).length < t.length := by
      have hmem := List.mem_of_find?_eq_some he
      have hp := List.find?_some he
      exact List.length_filter_lt_length_iff_exists.2 ⟨e, hmem, by simp [hp]⟩
    simp only
    split
    · rw [lookLeases_length, insertLease_length]
      omega
    · rw [insertLease_length]
      omega

end Sys2Proof.Machine
end

