-- ==== Sys2Proof/Laws/State.lean ====
section
/-! SUPPORT. One lemma per field per update of the state: what an update sets, and that it leaves every other
field as it was. Later proofs cite these and unfold no record update. -/

namespace Sys2Proof.Machine

variable (s : State)

/-! ## setRecord -/

@[simp] theorem State.setRecord_records (i : RecordId) (r : BufferRecord) : (s.setRecord i r).records = s.records.set i r := rfl
@[simp] theorem State.setRecord_streams (i : RecordId) (r : BufferRecord) : (s.setRecord i r).streams = s.streams := rfl
@[simp] theorem State.setRecord_leases (i : RecordId) (r : BufferRecord) : (s.setRecord i r).leases = s.leases := rfl
@[simp] theorem State.setRecord_trackers (i : RecordId) (r : BufferRecord) : (s.setRecord i r).trackers = s.trackers := rfl
@[simp] theorem State.setRecord_engine (i : RecordId) (r : BufferRecord) : (s.setRecord i r).engine = s.engine := rfl
@[simp] theorem State.setRecord_ports (i : RecordId) (r : BufferRecord) : (s.setRecord i r).ports = s.ports := rfl
@[simp] theorem State.setRecord_core (i : RecordId) (r : BufferRecord) : (s.setRecord i r).core = s.core := rfl
@[simp] theorem State.setRecord_pointer (i : RecordId) (r : BufferRecord) : (s.setRecord i r).pointer = s.pointer := rfl
@[simp] theorem State.setRecord_timebase (i : RecordId) (r : BufferRecord) : (s.setRecord i r).timebase = s.timebase := rfl
@[simp] theorem State.setRecord_resetAsserted (i : RecordId) (r : BufferRecord) : (s.setRecord i r).resetAsserted = s.resetAsserted := rfl
@[simp] theorem State.setRecord_fillBeats (i : RecordId) (r : BufferRecord) : (s.setRecord i r).fillBeats = s.fillBeats := rfl
@[simp] theorem State.setRecord_pending (i : RecordId) (r : BufferRecord) : (s.setRecord i r).pending = s.pending := rfl
/-- An update is read back at its own index and nowhere else. -/
theorem State.setRecord_record (i : RecordId) (r : BufferRecord) (j : RecordId) :
    (s.setRecord i r).record j = if i = j then r else s.record j := by
  simp [State.setRecord, State.record, Vector.getElem_set, Fin.ext_iff]
@[simp] theorem State.setRecord_record_self (i : RecordId) (r : BufferRecord) : (s.setRecord i r).record i = r := by
  simp [State.setRecord_record]
@[simp] theorem State.setRecord_record_ne (i : RecordId) (r : BufferRecord) (j : RecordId) (h : i ≠ j) : (s.setRecord i r).record j = s.record j := by
  simp [State.setRecord_record, h]
@[simp] theorem State.setRecord_stream (i : RecordId) (r : BufferRecord) (j : StreamId) : (s.setRecord i r).stream j = s.stream j := rfl
@[simp] theorem State.setRecord_tracker (i : RecordId) (r : BufferRecord) (j : StreamId) : (s.setRecord i r).tracker j = s.tracker j := rfl
@[simp] theorem State.setRecord_port (i : RecordId) (r : BufferRecord) (j : Port) : (s.setRecord i r).port j = s.port j := rfl

/-! ## setStream -/

@[simp] theorem State.setStream_records (k : StreamId) (c : Option Stream) : (s.setStream k c).records = s.records := rfl
@[simp] theorem State.setStream_streams (k : StreamId) (c : Option Stream) : (s.setStream k c).streams = s.streams.set k c := rfl
@[simp] theorem State.setStream_leases (k : StreamId) (c : Option Stream) : (s.setStream k c).leases = s.leases := rfl
@[simp] theorem State.setStream_trackers (k : StreamId) (c : Option Stream) : (s.setStream k c).trackers = s.trackers := rfl
@[simp] theorem State.setStream_engine (k : StreamId) (c : Option Stream) : (s.setStream k c).engine = s.engine := rfl
@[simp] theorem State.setStream_ports (k : StreamId) (c : Option Stream) : (s.setStream k c).ports = s.ports := rfl
@[simp] theorem State.setStream_core (k : StreamId) (c : Option Stream) : (s.setStream k c).core = s.core := rfl
@[simp] theorem State.setStream_pointer (k : StreamId) (c : Option Stream) : (s.setStream k c).pointer = s.pointer := rfl
@[simp] theorem State.setStream_timebase (k : StreamId) (c : Option Stream) : (s.setStream k c).timebase = s.timebase := rfl
@[simp] theorem State.setStream_resetAsserted (k : StreamId) (c : Option Stream) : (s.setStream k c).resetAsserted = s.resetAsserted := rfl
@[simp] theorem State.setStream_fillBeats (k : StreamId) (c : Option Stream) : (s.setStream k c).fillBeats = s.fillBeats := rfl
@[simp] theorem State.setStream_pending (k : StreamId) (c : Option Stream) : (s.setStream k c).pending = s.pending := rfl
@[simp] theorem State.setStream_record (k : StreamId) (c : Option Stream) (j : RecordId) : (s.setStream k c).record j = s.record j := rfl
/-- An update is read back at its own index and nowhere else. -/
theorem State.setStream_stream (k : StreamId) (c : Option Stream) (j : StreamId) :
    (s.setStream k c).stream j = if k = j then c else s.stream j := by
  simp [State.setStream, State.stream, Vector.getElem_set, Fin.ext_iff]
@[simp] theorem State.setStream_stream_self (k : StreamId) (c : Option Stream) : (s.setStream k c).stream k = c := by
  simp [State.setStream_stream]
@[simp] theorem State.setStream_stream_ne (k : StreamId) (c : Option Stream) (j : StreamId) (h : k ≠ j) : (s.setStream k c).stream j = s.stream j := by
  simp [State.setStream_stream, h]
@[simp] theorem State.setStream_tracker (k : StreamId) (c : Option Stream) (j : StreamId) : (s.setStream k c).tracker j = s.tracker j := rfl
@[simp] theorem State.setStream_port (k : StreamId) (c : Option Stream) (j : Port) : (s.setStream k c).port j = s.port j := rfl

/-! ## setTracker -/

@[simp] theorem State.setTracker_records (k : StreamId) (t : Tracker) : (s.setTracker k t).records = s.records := rfl
@[simp] theorem State.setTracker_streams (k : StreamId) (t : Tracker) : (s.setTracker k t).streams = s.streams := rfl
@[simp] theorem State.setTracker_leases (k : StreamId) (t : Tracker) : (s.setTracker k t).leases = s.leases := rfl
@[simp] theorem State.setTracker_trackers (k : StreamId) (t : Tracker) : (s.setTracker k t).trackers = s.trackers.set k t := rfl
@[simp] theorem State.setTracker_engine (k : StreamId) (t : Tracker) : (s.setTracker k t).engine = s.engine := rfl
@[simp] theorem State.setTracker_ports (k : StreamId) (t : Tracker) : (s.setTracker k t).ports = s.ports := rfl
@[simp] theorem State.setTracker_core (k : StreamId) (t : Tracker) : (s.setTracker k t).core = s.core := rfl
@[simp] theorem State.setTracker_pointer (k : StreamId) (t : Tracker) : (s.setTracker k t).pointer = s.pointer := rfl
@[simp] theorem State.setTracker_timebase (k : StreamId) (t : Tracker) : (s.setTracker k t).timebase = s.timebase := rfl
@[simp] theorem State.setTracker_resetAsserted (k : StreamId) (t : Tracker) : (s.setTracker k t).resetAsserted = s.resetAsserted := rfl
@[simp] theorem State.setTracker_fillBeats (k : StreamId) (t : Tracker) : (s.setTracker k t).fillBeats = s.fillBeats := rfl
@[simp] theorem State.setTracker_pending (k : StreamId) (t : Tracker) : (s.setTracker k t).pending = s.pending := rfl
@[simp] theorem State.setTracker_record (k : StreamId) (t : Tracker) (j : RecordId) : (s.setTracker k t).record j = s.record j := rfl
@[simp] theorem State.setTracker_stream (k : StreamId) (t : Tracker) (j : StreamId) : (s.setTracker k t).stream j = s.stream j := rfl
/-- An update is read back at its own index and nowhere else. -/
theorem State.setTracker_tracker (k : StreamId) (t : Tracker) (j : StreamId) :
    (s.setTracker k t).tracker j = if k = j then t else s.tracker j := by
  simp [State.setTracker, State.tracker, Vector.getElem_set, Fin.ext_iff]
@[simp] theorem State.setTracker_tracker_self (k : StreamId) (t : Tracker) : (s.setTracker k t).tracker k = t := by
  simp [State.setTracker_tracker]
@[simp] theorem State.setTracker_tracker_ne (k : StreamId) (t : Tracker) (j : StreamId) (h : k ≠ j) : (s.setTracker k t).tracker j = s.tracker j := by
  simp [State.setTracker_tracker, h]
@[simp] theorem State.setTracker_port (k : StreamId) (t : Tracker) (j : Port) : (s.setTracker k t).port j = s.port j := rfl

/-! ## setPort -/

@[simp] theorem State.setPort_records (p : Port) (q : AgentPort) : (s.setPort p q).records = s.records := rfl
@[simp] theorem State.setPort_streams (p : Port) (q : AgentPort) : (s.setPort p q).streams = s.streams := rfl
@[simp] theorem State.setPort_leases (p : Port) (q : AgentPort) : (s.setPort p q).leases = s.leases := rfl
@[simp] theorem State.setPort_trackers (p : Port) (q : AgentPort) : (s.setPort p q).trackers = s.trackers := rfl
@[simp] theorem State.setPort_engine (p : Port) (q : AgentPort) : (s.setPort p q).engine = s.engine := rfl
@[simp] theorem State.setPort_ports (p : Port) (q : AgentPort) : (s.setPort p q).ports = s.ports.set p q := rfl
@[simp] theorem State.setPort_core (p : Port) (q : AgentPort) : (s.setPort p q).core = s.core := rfl
@[simp] theorem State.setPort_pointer (p : Port) (q : AgentPort) : (s.setPort p q).pointer = s.pointer := rfl
@[simp] theorem State.setPort_timebase (p : Port) (q : AgentPort) : (s.setPort p q).timebase = s.timebase := rfl
@[simp] theorem State.setPort_resetAsserted (p : Port) (q : AgentPort) : (s.setPort p q).resetAsserted = s.resetAsserted := rfl
@[simp] theorem State.setPort_fillBeats (p : Port) (q : AgentPort) : (s.setPort p q).fillBeats = s.fillBeats := rfl
@[simp] theorem State.setPort_pending (p : Port) (q : AgentPort) : (s.setPort p q).pending = s.pending := rfl
@[simp] theorem State.setPort_record (p : Port) (q : AgentPort) (j : RecordId) : (s.setPort p q).record j = s.record j := rfl
@[simp] theorem State.setPort_stream (p : Port) (q : AgentPort) (j : StreamId) : (s.setPort p q).stream j = s.stream j := rfl
@[simp] theorem State.setPort_tracker (p : Port) (q : AgentPort) (j : StreamId) : (s.setPort p q).tracker j = s.tracker j := rfl
/-- An update is read back at its own index and nowhere else. -/
theorem State.setPort_port (p : Port) (q : AgentPort) (j : Port) :
    (s.setPort p q).port j = if p = j then q else s.port j := by
  simp [State.setPort, State.port, Vector.getElem_set, Fin.ext_iff]
@[simp] theorem State.setPort_port_self (p : Port) (q : AgentPort) : (s.setPort p q).port p = q := by
  simp [State.setPort_port]
@[simp] theorem State.setPort_port_ne (p : Port) (q : AgentPort) (j : Port) (h : p ≠ j) : (s.setPort p q).port j = s.port j := by
  simp [State.setPort_port, h]

/-! ## setLeases -/

@[simp] theorem State.setLeases_records (t : List LeaseEntry) : (s.setLeases t).records = s.records := rfl
@[simp] theorem State.setLeases_streams (t : List LeaseEntry) : (s.setLeases t).streams = s.streams := rfl
@[simp] theorem State.setLeases_leases (t : List LeaseEntry) : (s.setLeases t).leases = t := rfl
@[simp] theorem State.setLeases_trackers (t : List LeaseEntry) : (s.setLeases t).trackers = s.trackers := rfl
@[simp] theorem State.setLeases_engine (t : List LeaseEntry) : (s.setLeases t).engine = s.engine := rfl
@[simp] theorem State.setLeases_ports (t : List LeaseEntry) : (s.setLeases t).ports = s.ports := rfl
@[simp] theorem State.setLeases_core (t : List LeaseEntry) : (s.setLeases t).core = s.core := rfl
@[simp] theorem State.setLeases_pointer (t : List LeaseEntry) : (s.setLeases t).pointer = s.pointer := rfl
@[simp] theorem State.setLeases_timebase (t : List LeaseEntry) : (s.setLeases t).timebase = s.timebase := rfl
@[simp] theorem State.setLeases_resetAsserted (t : List LeaseEntry) : (s.setLeases t).resetAsserted = s.resetAsserted := rfl
@[simp] theorem State.setLeases_fillBeats (t : List LeaseEntry) : (s.setLeases t).fillBeats = s.fillBeats := rfl
@[simp] theorem State.setLeases_pending (t : List LeaseEntry) : (s.setLeases t).pending = s.pending := rfl
@[simp] theorem State.setLeases_record (t : List LeaseEntry) (j : RecordId) : (s.setLeases t).record j = s.record j := rfl
@[simp] theorem State.setLeases_stream (t : List LeaseEntry) (j : StreamId) : (s.setLeases t).stream j = s.stream j := rfl
@[simp] theorem State.setLeases_tracker (t : List LeaseEntry) (j : StreamId) : (s.setLeases t).tracker j = s.tracker j := rfl
@[simp] theorem State.setLeases_port (t : List LeaseEntry) (j : Port) : (s.setLeases t).port j = s.port j := rfl

/-! ## setEngine -/

@[simp] theorem State.setEngine_records (e : FillEngine) : (s.setEngine e).records = s.records := rfl
@[simp] theorem State.setEngine_streams (e : FillEngine) : (s.setEngine e).streams = s.streams := rfl
@[simp] theorem State.setEngine_leases (e : FillEngine) : (s.setEngine e).leases = s.leases := rfl
@[simp] theorem State.setEngine_trackers (e : FillEngine) : (s.setEngine e).trackers = s.trackers := rfl
@[simp] theorem State.setEngine_engine (e : FillEngine) : (s.setEngine e).engine = e := rfl
@[simp] theorem State.setEngine_ports (e : FillEngine) : (s.setEngine e).ports = s.ports := rfl
@[simp] theorem State.setEngine_core (e : FillEngine) : (s.setEngine e).core = s.core := rfl
@[simp] theorem State.setEngine_pointer (e : FillEngine) : (s.setEngine e).pointer = s.pointer := rfl
@[simp] theorem State.setEngine_timebase (e : FillEngine) : (s.setEngine e).timebase = s.timebase := rfl
@[simp] theorem State.setEngine_resetAsserted (e : FillEngine) : (s.setEngine e).resetAsserted = s.resetAsserted := rfl
@[simp] theorem State.setEngine_fillBeats (e : FillEngine) : (s.setEngine e).fillBeats = s.fillBeats := rfl
@[simp] theorem State.setEngine_pending (e : FillEngine) : (s.setEngine e).pending = s.pending := rfl
@[simp] theorem State.setEngine_record (e : FillEngine) (j : RecordId) : (s.setEngine e).record j = s.record j := rfl
@[simp] theorem State.setEngine_stream (e : FillEngine) (j : StreamId) : (s.setEngine e).stream j = s.stream j := rfl
@[simp] theorem State.setEngine_tracker (e : FillEngine) (j : StreamId) : (s.setEngine e).tracker j = s.tracker j := rfl
@[simp] theorem State.setEngine_port (e : FillEngine) (j : Port) : (s.setEngine e).port j = s.port j := rfl

/-! ## setCore -/

@[simp] theorem State.setCore_records (c : Option Execution) : (s.setCore c).records = s.records := rfl
@[simp] theorem State.setCore_streams (c : Option Execution) : (s.setCore c).streams = s.streams := rfl
@[simp] theorem State.setCore_leases (c : Option Execution) : (s.setCore c).leases = s.leases := rfl
@[simp] theorem State.setCore_trackers (c : Option Execution) : (s.setCore c).trackers = s.trackers := rfl
@[simp] theorem State.setCore_engine (c : Option Execution) : (s.setCore c).engine = s.engine := rfl
@[simp] theorem State.setCore_ports (c : Option Execution) : (s.setCore c).ports = s.ports := rfl
@[simp] theorem State.setCore_core (c : Option Execution) : (s.setCore c).core = c := rfl
@[simp] theorem State.setCore_pointer (c : Option Execution) : (s.setCore c).pointer = s.pointer := rfl
@[simp] theorem State.setCore_timebase (c : Option Execution) : (s.setCore c).timebase = s.timebase := rfl
@[simp] theorem State.setCore_resetAsserted (c : Option Execution) : (s.setCore c).resetAsserted = s.resetAsserted := rfl
@[simp] theorem State.setCore_fillBeats (c : Option Execution) : (s.setCore c).fillBeats = s.fillBeats := rfl
@[simp] theorem State.setCore_pending (c : Option Execution) : (s.setCore c).pending = s.pending := rfl
@[simp] theorem State.setCore_record (c : Option Execution) (j : RecordId) : (s.setCore c).record j = s.record j := rfl
@[simp] theorem State.setCore_stream (c : Option Execution) (j : StreamId) : (s.setCore c).stream j = s.stream j := rfl
@[simp] theorem State.setCore_tracker (c : Option Execution) (j : StreamId) : (s.setCore c).tracker j = s.tracker j := rfl
@[simp] theorem State.setCore_port (c : Option Execution) (j : Port) : (s.setCore c).port j = s.port j := rfl

/-! ## setPointer -/

@[simp] theorem State.setPointer_records (p : Port) : (s.setPointer p).records = s.records := rfl
@[simp] theorem State.setPointer_streams (p : Port) : (s.setPointer p).streams = s.streams := rfl
@[simp] theorem State.setPointer_leases (p : Port) : (s.setPointer p).leases = s.leases := rfl
@[simp] theorem State.setPointer_trackers (p : Port) : (s.setPointer p).trackers = s.trackers := rfl
@[simp] theorem State.setPointer_engine (p : Port) : (s.setPointer p).engine = s.engine := rfl
@[simp] theorem State.setPointer_ports (p : Port) : (s.setPointer p).ports = s.ports := rfl
@[simp] theorem State.setPointer_core (p : Port) : (s.setPointer p).core = s.core := rfl
@[simp] theorem State.setPointer_pointer (p : Port) : (s.setPointer p).pointer = p := rfl
@[simp] theorem State.setPointer_timebase (p : Port) : (s.setPointer p).timebase = s.timebase := rfl
@[simp] theorem State.setPointer_resetAsserted (p : Port) : (s.setPointer p).resetAsserted = s.resetAsserted := rfl
@[simp] theorem State.setPointer_fillBeats (p : Port) : (s.setPointer p).fillBeats = s.fillBeats := rfl
@[simp] theorem State.setPointer_pending (p : Port) : (s.setPointer p).pending = s.pending := rfl
@[simp] theorem State.setPointer_record (p : Port) (j : RecordId) : (s.setPointer p).record j = s.record j := rfl
@[simp] theorem State.setPointer_stream (p : Port) (j : StreamId) : (s.setPointer p).stream j = s.stream j := rfl
@[simp] theorem State.setPointer_tracker (p : Port) (j : StreamId) : (s.setPointer p).tracker j = s.tracker j := rfl
@[simp] theorem State.setPointer_port (p : Port) (j : Port) : (s.setPointer p).port j = s.port j := rfl

/-! ## setPending -/

@[simp] theorem State.setPending_records (q : List Instr) : (s.setPending q).records = s.records := rfl
@[simp] theorem State.setPending_streams (q : List Instr) : (s.setPending q).streams = s.streams := rfl
@[simp] theorem State.setPending_leases (q : List Instr) : (s.setPending q).leases = s.leases := rfl
@[simp] theorem State.setPending_trackers (q : List Instr) : (s.setPending q).trackers = s.trackers := rfl
@[simp] theorem State.setPending_engine (q : List Instr) : (s.setPending q).engine = s.engine := rfl
@[simp] theorem State.setPending_ports (q : List Instr) : (s.setPending q).ports = s.ports := rfl
@[simp] theorem State.setPending_core (q : List Instr) : (s.setPending q).core = s.core := rfl
@[simp] theorem State.setPending_pointer (q : List Instr) : (s.setPending q).pointer = s.pointer := rfl
@[simp] theorem State.setPending_timebase (q : List Instr) : (s.setPending q).timebase = s.timebase := rfl
@[simp] theorem State.setPending_resetAsserted (q : List Instr) : (s.setPending q).resetAsserted = s.resetAsserted := rfl
@[simp] theorem State.setPending_fillBeats (q : List Instr) : (s.setPending q).fillBeats = s.fillBeats := rfl
@[simp] theorem State.setPending_pending (q : List Instr) : (s.setPending q).pending = q := rfl
@[simp] theorem State.setPending_record (q : List Instr) (j : RecordId) : (s.setPending q).record j = s.record j := rfl
@[simp] theorem State.setPending_stream (q : List Instr) (j : StreamId) : (s.setPending q).stream j = s.stream j := rfl
@[simp] theorem State.setPending_tracker (q : List Instr) (j : StreamId) : (s.setPending q).tracker j = s.tracker j := rfl
@[simp] theorem State.setPending_port (q : List Instr) (j : Port) : (s.setPending q).port j = s.port j := rfl

/-! ## Updates of one place -/

/-- The later of two updates at one index stands. -/
@[simp] theorem State.setRecord_setRecord (i : RecordId) (r : BufferRecord) (r' : BufferRecord) :
    (s.setRecord i r).setRecord i r' = s.setRecord i r' := by
  simp [State.setRecord]
/-- The later of two updates at one index stands. -/
@[simp] theorem State.setStream_setStream (k : StreamId) (c : Option Stream) (c' : Option Stream) :
    (s.setStream k c).setStream k c' = s.setStream k c' := by
  simp [State.setStream]
/-- The later of two updates at one index stands. -/
@[simp] theorem State.setTracker_setTracker (k : StreamId) (t : Tracker) (t' : Tracker) :
    (s.setTracker k t).setTracker k t' = s.setTracker k t' := by
  simp [State.setTracker]
/-- The later of two updates at one index stands. -/
@[simp] theorem State.setPort_setPort (p : Port) (q : AgentPort) (q' : AgentPort) :
    (s.setPort p q).setPort p q' = s.setPort p q' := by
  simp [State.setPort]

end Sys2Proof.Machine
end

