-- ==== Sys2Proof/Laws/Arbiter.lean ====
section
/-! SUPPORT. The arbiter's choice and the grant: all they can change, and that a choice leaves nothing presented
to a free core (R149–R153). -/

namespace Sys2Proof.Machine

/-- The two outcomes of the arbiter's choice: nothing, or the grant of the chosen item to a free core (R151). -/
theorem State.arbitrate_cases (s : State) : s.arbitrate = s ∨
    ∃ i, s.core = none ∧ s.initOver = true ∧ s.chosenItem = some i ∧ s.arbitrate = s.grant i := by
  unfold State.arbitrate
  split
  · exact .inl rfl
  · rename_i hc
    split
    · rename_i hi
      split
      · exact .inl rfl
      · rename_i i hx
        exact .inr ⟨i, hc, hi, hx, rfl⟩
    · exact .inl rfl

/-- Everything a grant can change of a port: a HELD request slot becomes TAKEN (R150). -/
theorem State.grant_port (i : Item) (s : State) (p : Port) :
    (s.grant i).port p = s.port p ∨ (s.grant i).port p = { s.port p with request := (s.port p).request.take } := by
  have key : ∀ q, (s.grantPort q).port p = s.port p ∨
      (s.grantPort q).port p = { s.port p with request := (s.port p).request.take } := by
    intro q
    simp only [State.grantPort, State.modPort, State.setPointer_port, State.setPort_port]
    split
    · rename_i h
      subst h
      exact .inr rfl
    · exact .inl rfl
  cases i with
  | request q => exact key q
  | forcedDetach q => exact key q
  | fillReport r => exact .inl rfl
  | leaseExpiry e => exact .inl rfl
  | cadenceReport k late change interval => exact .inl rfl

/-- A grant changes the engine only by taking its report (R140, R150). -/
theorem State.grant_engine (i : Item) (s : State) :
    (s.grant i).engine = s.engine ∨ (s.grant i).engine = s.engine.takeReport s.timebase := by
  cases i with
  | fillReport r => exact .inr rfl
  | request q => exact .inl rfl
  | forcedDetach q => exact .inl rfl
  | leaseExpiry e => exact .inl rfl
  | cadenceReport k late change interval => exact .inl rfl

/-- A grant adds no lease entry (R102, R150). -/
theorem State.grant_leases (i : Item) (s : State) : (s.grant i).leases.length ≤ s.leases.length := by
  cases i with
  | leaseExpiry e =>
    show (lookLeases s.timebase (s.leases.filter fun x => !x.isOf e.handle e.port)).length ≤ _
    rw [lookLeases_length]
    exact List.length_filter_le _ _
  | request q => exact le_rfl
  | forcedDetach q => exact le_rfl
  | fillReport r => exact le_rfl
  | cadenceReport k late change interval => exact le_rfl

/-- The parts of the machine a grant leaves alone (R150). -/
theorem State.grant_frame (i : Item) (s : State) :
    (s.grant i).records = s.records ∧ (s.grant i).streams = s.streams ∧ (s.grant i).timebase = s.timebase ∧
      (s.grant i).resetAsserted = s.resetAsserted ∧ (s.grant i).fillBeats = s.fillBeats ∧
      (s.grant i).pending = s.pending ∧ (s.grant i).core = some { item := i, takenAt := s.timebase } := by
  cases i <;> exact ⟨rfl, rfl, rfl, rfl, rfl, rfl, rfl⟩

/-- The parts of the machine the arbiter leaves alone (R150, R151). -/
theorem State.arbitrate_frame (s : State) :
    s.arbitrate.records = s.records ∧ s.arbitrate.streams = s.streams ∧ s.arbitrate.timebase = s.timebase ∧
      s.arbitrate.resetAsserted = s.resetAsserted ∧ s.arbitrate.fillBeats = s.fillBeats ∧
      s.arbitrate.pending = s.pending := by
  rcases s.arbitrate_cases with h | ⟨i, -, -, -, h⟩
  · rw [h]
    exact ⟨rfl, rfl, rfl, rfl, rfl, rfl⟩
  · obtain ⟨h1, h2, h3, h4, h5, h6, -⟩ := s.grant_frame i
    rw [h]
    exact ⟨h1, h2, h3, h4, h5, h6⟩

/-- Every port has left INIT exactly when none is in it (R163). -/
theorem State.initOver_iff (s : State) : s.initOver = true ↔ ∀ p, (s.port p).state ≠ .init := by
  simp [State.initOver, allPorts]

/-- A choice leaves nothing presented to a free core (R151). -/
theorem State.arbitrate_settled (s : State) : s.arbitrate.ArbiterSettled := by
  intro hc hp
  rcases s.arbitrate_cases with h | ⟨i, -, -, -, h⟩
  · rw [h] at hc hp ⊢
    have hi := s.initOver_iff.2 hp
    have h' := h
    simp only [State.arbitrate, hc, hi, if_true] at h'
    split at h'
    · assumption
    · rw [← h'] at hc
      exact absurd hc (by rw [(s.grant_frame _).2.2.2.2.2.2]; simp)
  · rw [h, (s.grant_frame i).2.2.2.2.2.2] at hc
    cases hc

end Sys2Proof.Machine
end

