-- ==== Sys2Proof/Laws/Notices.lean ====
section
/-! SUPPORT. What the procedures of the core do to a port that is not their requester's: the notice queue, the
expired-handle list and the tally of a head in transfer, within the capacities of R106 and R181. -/

namespace Sys2Proof.Machine

/-- What a procedure may change of a port: its notice queue, its expired-handle list and the tally of a NOTICE
under way, keeping the capacities. Every other field stays. -/
structure AgentPort.Keeps (q r : AgentPort) : Prop where
  fixed : r = { q with notices := r.notices, expired := r.expired, transaction := r.transaction }
  submit : ∀ b, r.transaction = some (.submit b) ↔ q.transaction = some (.submit b)
  ordinary : (q.notices.countP fun n => n.kind ≠ .overflow) ≤ 31 →
    (r.notices.countP fun n => n.kind ≠ .overflow) ≤ 31
  overflow : (q.notices.countP fun n => n.kind = .overflow) ≤ 1 →
    (r.notices.countP fun n => n.kind = .overflow) ≤ 1
  expired : q.expired.length ≤ 8 → r.expired.length ≤ 8

theorem AgentPort.Keeps.refl (q : AgentPort) : q.Keeps q :=
  ⟨rfl, fun _ => Iff.rfl, id, id, id⟩

theorem AgentPort.Keeps.trans {q r t : AgentPort} (h : q.Keeps r) (h' : r.Keeps t) : q.Keeps t where
  fixed := by rw [h'.fixed, h.fixed]
  submit b := (h'.submit b).trans (h.submit b)
  ordinary := h'.ordinary ∘ h.ordinary
  overflow := h'.overflow ∘ h.overflow
  expired := h'.expired ∘ h.expired

/-- A tally turns no transaction into a SUBMIT and no SUBMIT into another. -/
theorem Transaction.tallyHead_submit (amount : BitVec 32) (x : Option Transaction) (b : Bool) :
    x.map (Transaction.tallyHead amount) = some (.submit b) ↔ x = some (.submit b) := by
  rcases x with _ | x
  · simp
  · cases x with
    | notice copy transfer tally sum => cases transfer <;> simp [Transaction.tallyHead]
    | _ => simp [Transaction.tallyHead]

/-- Emptying the queue turns no transaction into a SUBMIT and no SUBMIT into another. -/
theorem Transaction.endTransfer_submit (x : Option Transaction) (b : Bool) :
    x.map Transaction.endTransfer = some (.submit b) ↔ x = some (.submit b) := by
  rcases x with _ | x
  · simp
  · cases x <;> simp [Transaction.endTransfer]

/-- A change of one record that keeps its kind keeps the number of records of any set of kinds. -/
theorem countP_modify_kind (pick : NoticeKind → Bool) (f : Notice → Notice) (hf : ∀ n, (f n).kind = n.kind)
    (j : Nat) (l : List Notice) :
    (l.modify j f).countP (fun n => pick n.kind) = l.countP fun n => pick n.kind := by
  induction l generalizing j with
  | nil => simp
  | cons n l ih => cases j <;> simp [List.countP_cons, hf, ih]

/-- Gathering an occurrence into a record keeps the kinds of the queue. -/
theorem AgentPort.gather_keeps (j : Nat) (f : Notice → Notice) (hf : ∀ n, (f n).kind = n.kind)
    (amount : BitVec 32) (q : AgentPort) : q.Keeps (q.gather j f amount) where
  fixed := rfl
  submit b := by
    simp only [AgentPort.gather]
    split
    · exact Transaction.tallyHead_submit _ _ _
    · rfl
  ordinary h := by
    have := countP_modify_kind (fun k => decide (k ≠ .overflow)) f hf j q.notices
    simp only [AgentPort.gather]
    rw [this]
    exact h
  overflow h := by
    have := countP_modify_kind (fun k => decide (k = .overflow)) f hf j q.notices
    simp only [AgentPort.gather]
    rw [this]
    exact h
  expired h := h

/-- Enqueueing a notice keeps a port's other fields and its capacities (R183–R185). -/
theorem AgentPort.enqueue_keeps {kind : NoticeKind} (hk : kind ≠ .overflow) (k : StreamId)
    (detail : Option (BitVec 32)) (now : Time) (q : AgentPort) : q.Keeps (q.enqueue kind k detail now) := by
  unfold AgentPort.enqueue
  split
  · exact .refl q
  split
  · exact .refl q
  split
  · exact AgentPort.gather_keeps _ (Notice.coalesce detail now) (fun n => rfl) _ q
  split
  · rename_i hroom
    refine ⟨rfl, fun _ => Iff.rfl, fun _ => ?_, fun h => ?_, id⟩
    · simp only [AgentPort.append, List.countP_append, List.countP_singleton]
      simp only [Config.ordinaryNotices] at hroom
      split <;> omega
    · simpa [AgentPort.append, List.countP_append, hk] using h
  · unfold AgentPort.lose
    split
    · exact AgentPort.gather_keeps _ (Notice.countLoss now) (fun n => rfl) _ q
    · rename_i hnone
      refine ⟨rfl, fun _ => Iff.rfl, fun h => ?_, fun _ => ?_, id⟩
      · simpa [AgentPort.append, List.countP_append] using h
      · have : (q.notices.countP fun n => decide (n.kind = .overflow)) = 0 := by
          simpa [List.countP_eq_zero, List.findIdx?_eq_none_iff] using hnone
        simp [AgentPort.append, List.countP_append, this]

/-- Recording an expiry keeps the list at 8 handles (R106). -/
theorem AgentPort.recordExpired_keeps (h : BitVec 16) (q : AgentPort) : q.Keeps (q.recordExpired h) where
  fixed := rfl
  submit _ := Iff.rfl
  ordinary := id
  overflow := id
  expired hl := by
    have hc : Config.expiredHandles = 8 := rfl
    simp only [AgentPort.recordExpired, List.length_append, List.length_singleton]
    split
    · rw [List.length_drop]
      omega
    · omega

/-- Forgetting an expired handle keeps the list at 8 handles (R14, R107). -/
theorem AgentPort.forgetExpired_keeps (h : BitVec 16) (q : AgentPort) : q.Keeps (q.forgetExpired h) where
  fixed := rfl
  submit _ := Iff.rfl
  ordinary := id
  overflow := id
  expired hl := (List.length_filter_le _ _).trans hl

end Sys2Proof.Machine
end

