-- ==== Sys2Proof/Laws/Procedures.lean ====
section
/-! SUPPORT. Everything a procedure of the core can do to the parts of the machine outside the records, streams
and trackers, in one relation, and that every procedure keeps it: the arbiter, the timebase and the queue stay,
ports change as `AgentPort.Keeps` says, and the capacities and the region map are kept. -/

namespace Sys2Proof.Machine

/-- What a procedure of the core keeps. -/
structure State.Keeps (s u : State) : Prop where
  core : u.core = s.core
  pointer : u.pointer = s.pointer
  timebase : u.timebase = s.timebase
  resetAsserted : u.resetAsserted = s.resetAsserted
  fillBeats : u.fillBeats = s.fillBeats
  pending : u.pending = s.pending
  ports : ∀ p, (s.port p).Keeps (u.port p)
  leases : s.leases.length ≤ 128 → u.leases.length ≤ 128
  jobs : s.engine.jobs.length ≤ 8 → u.engine.jobs.length ≤ 8
  engine : s.engine.Coherent → u.engine.Coherent
  regions : s.RegionsDisjoint → u.RegionsDisjoint

theorem State.Keeps.refl (s : State) : s.Keeps s :=
  ⟨rfl, rfl, rfl, rfl, rfl, rfl, fun _ => .refl _, id, id, id, id⟩

theorem State.Keeps.trans {s t u : State} (h : s.Keeps t) (h' : t.Keeps u) : s.Keeps u where
  core := h'.core.trans h.core
  pointer := h'.pointer.trans h.pointer
  timebase := h'.timebase.trans h.timebase
  resetAsserted := h'.resetAsserted.trans h.resetAsserted
  fillBeats := h'.fillBeats.trans h.fillBeats
  pending := h'.pending.trans h.pending
  ports p := (h.ports p).trans (h'.ports p)
  leases := h'.leases ∘ h.leases
  jobs := h'.jobs ∘ h.jobs
  engine := h'.engine ∘ h.engine
  regions := h'.regions ∘ h.regions

/-- A fold of procedures is one. -/
theorem State.Keeps.foldl {α : Type} (f : State → α → State) (hf : ∀ (s : State) a, s.Keeps (f s a)) (l : List α)
    (s : State) : s.Keeps (l.foldl f s) := by
  induction l generalizing s with
  | nil => exact .refl s
  | cons a l ih => exact (hf s a).trans (ih _)

/-! ## Single updates -/

theorem State.setStream_keeps (k : StreamId) (c : Option Stream) (s : State) : s.Keeps (s.setStream k c) :=
  ⟨rfl, rfl, rfl, rfl, rfl, rfl, fun _ => .refl _, id, id, id, id⟩

theorem State.modStream_keeps (k : StreamId) (f : Stream → Stream) (s : State) : s.Keeps (s.modStream k f) :=
  s.setStream_keeps k _

theorem State.setTracker_keeps (k : StreamId) (t : Tracker) (s : State) : s.Keeps (s.setTracker k t) :=
  ⟨rfl, rfl, rfl, rfl, rfl, rfl, fun _ => .refl _, id, id, id, id⟩

theorem State.modTracker_keeps (k : StreamId) (f : Tracker → Tracker) (s : State) : s.Keeps (s.modTracker k f) :=
  s.setTracker_keeps k _

/-- Regions that stay or go keep the map free of overlap (R16). -/
theorem State.regionsDisjoint_of {s u : State}
    (h : ∀ i, (u.record i).region = (s.record i).region ∨ (u.record i).region = none)
    (hs : s.RegionsDisjoint) : u.RegionsDisjoint := by
  intro i j hij x y hx hy
  rcases h i with hi | hi <;> rcases h j with hj | hj <;> simp_all
  exact hs i j hij x y hx hy

theorem State.setRecord_keeps (i : RecordId) (r : BufferRecord) (s : State)
    (hr : r.region = (s.record i).region ∨ r.region = none) : s.Keeps (s.setRecord i r) := by
  refine ⟨rfl, rfl, rfl, rfl, rfl, rfl, fun _ => .refl _, id, id, id, State.regionsDisjoint_of fun j => ?_⟩
  rw [State.setRecord_record]
  split
  · rename_i h
    subst h
    exact hr
  · exact .inl rfl

theorem State.modRecord_keeps (i : RecordId) (f : BufferRecord → BufferRecord)
    (hf : ∀ r, (f r).region = r.region ∨ (f r).region = none) (s : State) : s.Keeps (s.modRecord i f) :=
  s.setRecord_keeps i _ (hf _)

theorem State.setPort_keeps (p : Port) (q : AgentPort) (s : State) (hq : (s.port p).Keeps q) :
    s.Keeps (s.setPort p q) := by
  refine ⟨rfl, rfl, rfl, rfl, rfl, rfl, fun j => ?_, id, id, id, id⟩
  rw [State.setPort_port]
  split
  · rename_i h
    subst h
    exact hq
  · exact .refl _

theorem State.modPort_keeps (p : Port) (f : AgentPort → AgentPort) (hf : ∀ q : AgentPort, q.Keeps (f q))
    (s : State) : s.Keeps (s.modPort p f) :=
  s.setPort_keeps p _ (hf _)

theorem State.setLeases_keeps (t : List LeaseEntry) (s : State)
    (ht : s.leases.length ≤ 128 → t.length ≤ 128) : s.Keeps (s.setLeases t) :=
  ⟨rfl, rfl, rfl, rfl, rfl, rfl, fun _ => .refl _, ht, id, id, id⟩

theorem State.setEngine_keeps (e : FillEngine) (s : State)
    (hl : s.engine.jobs.length ≤ 8 → e.jobs.length ≤ 8) (he : s.engine.Coherent → e.Coherent) :
    s.Keeps (s.setEngine e) :=
  ⟨rfl, rfl, rfl, rfl, rfl, rfl, fun _ => .refl _, id, hl, he, id⟩

/-! ## What changes of a record leave its region -/

theorem BufferRecord.region_toFrame (st : FrameState) (r : BufferRecord) : (r.toFrame st).region = r.region := by
  unfold BufferRecord.toFrame BufferRecord.region BufferRecord.assignment
  rcases r with ⟨g, fl, u⟩
  cases u <;> rfl

theorem BufferRecord.region_toDraining (r : BufferRecord) : r.toDraining.region = r.region := by
  rcases r with ⟨g, fl, u | ⟨a, st⟩ | u⟩
  · rfl
  · cases st <;> rfl
  · rfl

theorem BufferRecord.region_mapHold (f : PortSet → PortSet) (r : BufferRecord) :
    (r.mapHold f).region = r.region := by
  rcases r with ⟨g, fl, u | ⟨a, st⟩ | u⟩
  · rfl
  · cases st <;> rfl
  · rfl

theorem BufferRecord.region_mapPending (f : PortSet → PortSet) (r : BufferRecord) :
    (r.mapPending f).region = r.region := by
  rcases r with ⟨g, fl, u | ⟨a, st⟩ | u⟩
  · rfl
  · cases st <;> rfl
  · rfl

theorem BufferRecord.region_setCondition (c : FallbackCondition) (r : BufferRecord) :
    (r.setCondition c).region = r.region := by
  rcases r with ⟨g, fl, u | ⟨a, st⟩ | u⟩ <;> rfl

theorem BufferRecord.region_setFill (x : FillRef) (r : BufferRecord) : (r.setFill x).region = r.region := rfl

theorem BufferRecord.region_raise (r : BufferRecord) : r.raise.region = r.region := rfl

theorem BufferRecord.region_unassign (r : BufferRecord) : r.unassign.region = none := rfl

/-! ## Notices -/

theorem State.notifyAt_keeps (t : Time) (p : Port) {kind : NoticeKind} (hk : kind ≠ .overflow) (k : StreamId)
    (detail : Option (BitVec 32)) (s : State) : s.Keeps (s.notifyAt t p kind k detail) :=
  State.modPort_keeps p _ (fun q => AgentPort.enqueue_keeps hk k detail t q) s

theorem State.notify_keeps (p : Port) {kind : NoticeKind} (hk : kind ≠ .overflow) (k : StreamId)
    (detail : Option (BitVec 32)) (s : State) : s.Keeps (s.notify p kind k detail) :=
  State.notifyAt_keeps _ p hk k detail s

theorem State.notifyEach_keeps (ps : List Port) {kind : NoticeKind} (hk : kind ≠ .overflow) (k : StreamId)
    (detail : Option (BitVec 32)) (s : State) : s.Keeps (s.notifyEach ps kind k detail) :=
  State.Keeps.foldl _ (fun s p => s.notify_keeps p hk k detail) ps s

/-! ## Buffers, write handles and holds -/

theorem State.becomeFree_keeps (i : RecordId) (k : StreamId) (s : State) : s.Keeps (s.becomeFree i k) := by
  have h := State.modRecord_keeps i (BufferRecord.toFrame .free) (fun r => .inl (r.region_toFrame _)) s
  simp only [State.becomeFree]
  split
  · exact h
  · split
    · exact (h.trans (State.setStream_keeps _ _ _)).trans (State.notify_keeps _ (by decide) _ _ _)
    · exact h.trans (State.setStream_keeps _ _ _)

theorem State.retire_keeps (i : RecordId) (k : StreamId) (s : State) : s.Keeps (s.retire i k) := by
  unfold State.retire
  split
  · exact s.becomeFree_keeps i k
  · exact State.modRecord_keeps i _ (fun r => .inl r.region_toDraining) s

theorem State.setEngine_cancel_keeps (tag : BitVec 8) (s : State) :
    s.Keeps (s.setEngine (s.engine.cancel tag).2) :=
  s.setEngine_keeps _ ((s.engine.cancel_jobs_length tag).trans) (s.engine.cancel_coherent tag)

theorem State.endWriting_keeps (i : RecordId) (k : StreamId) (s : State) : s.Keeps (s.endWriting i k) := by
  have key : ∀ tag : BitVec 8, s.Keeps (match s.engine.cancel tag with
      | (.marked, e) => (s.setEngine e).modRecord i fun r => (r.toFrame .settling).setFill (.cancelling tag)
      | (_, e) => ((s.setEngine e).modRecord i (BufferRecord.setFill .noJob)).becomeFree i k) := by
    intro tag
    have h := s.setEngine_cancel_keeps tag
    rcases hc : s.engine.cancel tag with ⟨ans, e⟩
    rw [hc] at h
    have hset : ∀ x, (s.setEngine e).Keeps ((s.setEngine e).modRecord i (BufferRecord.setFill x)) :=
      fun x => State.modRecord_keeps i _ (fun r => .inl (r.region_setFill x)) _
    cases ans
    · exact (h.trans (hset .noJob)).trans (State.becomeFree_keeps i k _)
    · exact h.trans (State.modRecord_keeps i (fun r => (r.toFrame .settling).setFill (.cancelling tag))
        (fun r => .inl (r.region_toFrame _)) _)
    · exact (h.trans (hset .noJob)).trans (State.becomeFree_keeps i k _)
  unfold State.endWriting
  split
  · exact s.becomeFree_keeps i k
  · exact key _
  · exact key _

theorem State.endLease_keeps (h : BitVec 16) (p : Port) (s : State) : s.Keeps (s.endLease h p) :=
  s.setLeases_keeps _ (removeLease_length_le _ _ _ _).trans

theorem State.endWriteHandle_keeps (i : RecordId) (p : Port) (k : StreamId) (s : State) :
    s.Keeps (s.endWriteHandle i p k) :=
  (s.endLease_keeps _ p).trans (State.endWriting_keeps _ _ _)

theorem State.endStreamWrite_keeps (k : StreamId) (s : State) : s.Keeps (s.endStreamWrite k) := by
  unfold State.endStreamWrite
  split
  · exact .refl s
  · exact s.endWriteHandle_keeps _ _ _

theorem State.endHold_keeps (i : RecordId) (p : Port) (k : StreamId) (s : State) : s.Keeps (s.endHold i p k) := by
  have h := (State.modRecord_keeps i (BufferRecord.mapHold fun x => x.drop p)
    (fun r => .inl (r.region_mapHold _)) s).trans
    (State.modStream_keeps k (Stream.modConsumer p fun c => { c with readHolds := c.readHolds - 1 }) _)
  simp only [State.endHold]
  split
  · exact h.trans (State.becomeFree_keeps _ _ _)
  · exact h

theorem State.releaseHold_keeps (i : RecordId) (p : Port) (k : StreamId) (s : State) :
    s.Keeps (s.releaseHold i p k) :=
  (s.endLease_keeps _ p).trans (State.endHold_keeps _ _ _ _)

/-! ## Closing -/

theorem State.completeClose_keeps (k : StreamId) (st : Stream) (o : CloseOrigin) (s : State) :
    s.Keeps (s.completeClose k st o) := by
  have h : s.Keeps { s with
      records := s.records.map fun (r : BufferRecord) => if r.names k then r.unassign else r } := by
    refine ⟨rfl, rfl, rfl, rfl, rfl, rfl, fun _ => .refl _, id, id, id, State.regionsDisjoint_of fun i => ?_⟩
    simp only [State.record, Fin.getElem_fin, Vector.getElem_map]
    split
    · exact .inr rfl
    · exact .inl rfl
  simp only [State.completeClose]
  split
  · exact (h.trans (State.setStream_keeps _ _ _)).trans (State.notify_keeps _ (by decide) _ _ _)
  · exact h.trans (State.setStream_keeps _ _ _)

theorem State.completionCheck_keeps (k : StreamId) (s : State) : s.Keeps (s.completionCheck k) := by
  unfold State.completionCheck
  split
  · exact .refl s
  · split
    · split
      · exact s.completeClose_keeps _ _ _
      · exact .refl s
    · exact .refl s

theorem State.cancelFallbackFill_keeps (k : StreamId) (s : State) : s.Keeps (s.cancelFallbackFill k) := by
  have key : ∀ (i : RecordId) (tag : BitVec 8), s.Keeps (match s.engine.cancel tag with
      | (.marked, e) => (s.setEngine e).modRecord i (BufferRecord.setFill (.cancelling tag))
      | (_, e) => (s.setEngine e).modRecord i (BufferRecord.setFill .noJob)) := by
    intro i tag
    have h := s.setEngine_cancel_keeps tag
    rcases hc : s.engine.cancel tag with ⟨ans, e⟩
    rw [hc] at h
    have hset : ∀ x, (s.setEngine e).Keeps ((s.setEngine e).modRecord i (BufferRecord.setFill x)) :=
      fun x => State.modRecord_keeps i _ (fun r => .inl (r.region_setFill x)) _
    cases ans
    · exact h.trans (hset .noJob)
    · exact h.trans (hset (.cancelling tag))
    · exact h.trans (hset .noJob)
  unfold State.cancelFallbackFill
  split
  · exact .refl s
  · split
    · exact .refl s
    · exact key _ _
    · exact key _ _

theorem State.enterClosing_keeps (k : StreamId) (o : CloseOrigin) (s : State) : s.Keeps (s.enterClosing k o) := by
  unfold State.enterClosing
  split
  · exact .refl s
  · exact (((((((State.setStream_keeps _ _ _).trans (State.notifyEach_keeps _ (by decide) _ _ _)).trans
      (State.Keeps.foldl _ (fun s i => s.retire_keeps i k) _ _)).trans (State.endStreamWrite_keeps _ _)).trans
      (State.cancelFallbackFill_keeps _ _)).trans (State.modTracker_keeps _ _ _)).trans
      (State.modStream_keeps _ _ _)).trans (State.completionCheck_keeps _ _)

/-! ## Departures and the detach actions -/

theorem State.releaseHolds_keeps (p : Port) (k : StreamId) (s : State) : s.Keeps (s.releaseHolds p k) :=
  State.Keeps.foldl _ (fun s i => s.releaseHold_keeps i p k) _ s

theorem State.dropOwed_keeps (p : Port) (k : StreamId) (i : RecordId) (s : State) :
    s.Keeps (s.dropOwed p k i) := by
  have h := State.modRecord_keeps i (BufferRecord.mapPending fun x => x.drop p)
    (fun r => .inl (r.region_mapPending _)) s
  unfold State.dropOwed
  split
  · exact .refl s
  · simp only
    split
    · exact (h.trans (State.modStream_keeps _ _ _)).trans (State.retire_keeps _ _ _)
    · exact h

theorem State.dropAllOwed_keeps (p : Port) (k : StreamId) (s : State) : s.Keeps (s.dropAllOwed p k) := by
  unfold State.dropAllOwed
  split
  · exact .refl s
  · split
    · exact State.Keeps.foldl _ (fun s i => s.dropOwed_keeps p k i) _ s
    · exact .refl s

theorem State.dropEntry_keeps (p : Port) (k : StreamId) (s : State) : s.Keeps (s.dropEntry p k) := by
  unfold State.dropEntry
  split
  · exact .refl s
  · simp only
    split
    · exact (State.setStream_keeps _ _ _).trans (State.notify_keeps _ (by decide) _ _ _)
    · exact State.setStream_keeps _ _ _

theorem State.orphanCheck_keeps (k : StreamId) (s : State) : s.Keeps (s.orphanCheck k) := by
  unfold State.orphanCheck
  split
  · exact .refl s
  · split
    · exact s.enterClosing_keeps _ _
    · exact .refl s

theorem State.depart_keeps (p : Port) (k : StreamId) (s : State) : s.Keeps (s.depart p k) :=
  (((s.releaseHolds_keeps p k).trans (State.dropAllOwed_keeps _ _ _)).trans (State.dropEntry_keeps _ _ _)).trans
    (State.orphanCheck_keeps _ _)

theorem State.departIfMember_keeps (p : Port) (k : StreamId) (s : State) : s.Keeps (s.departIfMember p k) := by
  unfold State.departIfMember
  split
  · exact .refl s
  · split
    · exact s.depart_keeps p k
    · exact .refl s

theorem State.releaseInClosing_keeps (p : Port) (k : StreamId) (s : State) :
    s.Keeps (s.releaseInClosing p k) := by
  unfold State.releaseInClosing
  split
  · exact .refl s
  · split
    · split
      · exact .refl s
      · exact (s.releaseHolds_keeps p k).trans (State.completionCheck_keeps _ _)
    · exact .refl s

theorem State.orphan_keeps (k : StreamId) (s : State) : s.Keeps (s.orphan k) := by
  unfold State.orphan
  split
  · exact .refl s
  · exact ((State.setStream_keeps _ _ _).trans (State.modTracker_keeps _ _ _)).trans
      (State.notifyEach_keeps _ (by decide) _ _ _)

theorem State.dropProducer_keeps (p : Port) (k : StreamId) (s : State) : s.Keeps (s.dropProducer p k) := by
  have h := (s.endStreamWrite_keeps k).trans
    (State.modStream_keeps k (fun st => { st with producerPresent := false }) _)
  unfold State.dropProducer
  split
  · exact .refl s
  · split
    · simp only
      split
      · exact h.trans (State.enterClosing_keeps _ _ _)
      · split
        · exact h.trans (State.enterClosing_keeps _ _ _)
        · exact h.trans (State.orphan_keeps _ _)
      · exact h
    · exact .refl s

theorem State.clearExpired_keeps (p : Port) (s : State) : s.Keeps (s.clearExpired p) :=
  State.modPort_keeps p (fun q => { q with expired := [] })
    (fun _ => ⟨rfl, fun _ => Iff.rfl, id, id, fun _ => Nat.zero_le _⟩) s

theorem State.detachActions_keeps (p : Port) (s : State) : s.Keeps (s.detachActions p) :=
  (((State.Keeps.foldl _ (fun s k => s.departIfMember_keeps p k) _ s).trans
    (State.Keeps.foldl _ (fun s k => s.releaseInClosing_keeps p k) _ _)).trans
    (State.Keeps.foldl _ (fun s k => s.dropProducer_keeps p k) _ _)).trans (State.clearExpired_keeps _ _)

/-! ## Leases and fills -/

/-- A lease is granted only where the table has room (R98). -/
theorem State.grantLease_keeps (kind : HandleKind) (i : RecordId) (p : Port) (units : BitVec 16) (s : State)
    (h : s.LeaseRoom units) : s.Keeps (s.grantLease kind i p units) := by
  unfold State.grantLease
  split
  · exact .refl s
  · rename_i hu
    refine s.setLeases_keeps _ fun _ => ?_
    rw [insertLease_length]
    rcases h with h | h
    · exact absurd h hu
    · omega

/-- A fill is submitted only where the job queue has room (R28, R142, R144). -/
theorem State.submitFill_keeps (o : FillOrder) (s : State) (h : s.engine.jobs.length < 8) :
    s.Keeps (s.submitFill o) :=
  (s.setEngine_keeps _ (fun _ => by rw [FillEngine.submit_jobs_length]; omega)
    (fun hc => FillEngine.submit_coherent _ _ _ hc h)).trans
    (State.modRecord_keeps _ _ (fun r => .inl (r.region_setFill _)) _)

end Sys2Proof.Machine
end

