-- ==== Sys2Proof/Laws/Requests.lean ====
section
/-! SUPPORT. How the execution of a request runs: the request under execution is the one whose body runs, a
check passes or ends the request, and the end of the execution is `State.respond` and the arbiter's choice. -/

namespace Sys2Proof.Machine

/-! ## The frame of an execution -/

/-- The core's execution names the request of the port whose slot holds it. -/
theorem State.executing_of_executes {s : State} {p : Port} {f : RequestFrame} {t : Time}
    (h : s.Executes p f t) : s.executing p = some (f, t) := by
  simp [State.executing, h.1, h.2]

/-- An execution ends by the response and the arbiter's next choice. -/
theorem State.endRequest_eq (p : Port) (f : RequestFrame) (r : State × Reply) :
    State.endRequest p f r = (State.respond p f r.2.result r.2.payload r.1).arbitrate := by
  simp only [State.endRequest, State.finish, State.respond, State.modPort, AgentPort.placeResponse]

/-- A request command runs the body of its kind when it is the one under execution. -/
theorem State.runRequest_of_executes {s : State} {p : Port} {f : RequestFrame} {t : Time} {kind : Option Request}
    (body : RequestFrame → Time → State → State × Reply) (h : s.Executes p f t) (hk : f.request = kind) :
    s.runRequest p kind body =
      (State.respond p f (body f t s).2.result (body f t s).2.payload (body f t s).1).arbitrate := by
  simp [State.runRequest, State.executing_of_executes h, hk, State.endRequest_eq]

/-- A request command has no effect where no request of the port is under execution, or one of another kind. -/
theorem State.runRequest_of_other {s : State} {p : Port} {kind : Option Request}
    (body : RequestFrame → Time → State → State × Reply)
    (h : ∀ f t, s.Executes p f t → f.request ≠ kind) : s.runRequest p kind body = s := by
  unfold State.runRequest
  split
  · rfl
  · rename_i f t hx
    have hx' : s.Executes p f t := by
      unfold State.executing at hx
      split at hx
      · rename_i q t' f' hc hr
        by_cases hq : q = p
        · simp [hq] at hx
          obtain ⟨rfl, rfl⟩ := hx
          exact ⟨by rw [hc, hq], hr⟩
        · simp [hq] at hx
      · cases hx
    simp [h f t hx']

/-! ## Checks -/

/-- A check that holds lets the sequence go on; one that fails ends it with its result. -/
theorem answer_check (b : Bool) (r : Result) (s : State) (k : Unit → Checked (State × Reply)) :
    answer (check b r s >>= k) = if b then answer (k ()) else (s, .refuse r) := by
  cases b <;> rfl

@[simp] theorem answer_ok (x : State × Reply) : answer (.ok x) = x := rfl
@[simp] theorem answer_error (x : State × Reply) : answer (.error x) = x := rfl
@[simp] theorem answer_bind_ok {α : Type} (a : α) (k : α → Checked (State × Reply)) :
    answer ((Except.ok a : Checked α) >>= k) = answer (k a) := rfl
@[simp] theorem answer_bind_error {α : Type} (x : State × Reply) (k : α → Checked (State × Reply)) :
    answer ((Except.error x : Checked α) >>= k) = x := rfl

/-- Step 2 passes exactly in session. -/
theorem checkSession_of_inSession {s : State} {p : Port} {f : RequestFrame} (h : s.InSession p f) :
    checkSession p f s = .ok () := by
  simp [checkSession, check, h.1, h.2, bind, Except.bind]

/-- The three outcomes of step 2 (R155). -/
theorem answer_checkSession (p : Port) (f : RequestFrame) (s : State) (k : Unit → Checked (State × Reply)) :
    answer (checkSession p f s >>= k) =
      if (s.port p).inForce = false then (s, .refuse .notAttached)
      else if f.session ≠ (s.port p).session then (s, .refuse .staleSession)
      else answer (k ()) := by
  by_cases h1 : (s.port p).inForce <;> by_cases h2 : f.session = (s.port p).session <;>
    simp [checkSession, check, h1, h2, bind, Except.bind, answer]

/-- Step 4 for a stream id that names a live stream (R25). -/
theorem checkStream_of_live {s : State} {id : Nat} {k : StreamId} {st : Stream}
    (admits : StreamPhase → Bool) (hid : id = k.val) (hs : s.stream k = some st) :
    checkStream id admits s =
      if admits st.phase then .ok (k, st) else .error (s, .refuse .streamState) := by
  subst hid
  simp [checkStream, k.isLt, hs]

/-- Step 4 for a stream id above 15 or one that names a CLOSED context (R25). -/
theorem checkStream_of_unknown {s : State} {id : Nat} (admits : StreamPhase → Bool)
    (h : 15 < id ∨ ∃ k : StreamId, id = k.val ∧ s.stream k = none) :
    checkStream id admits s = .error (s, .refuse .unknownStream) := by
  unfold checkStream
  split
  · rename_i hlt
    rcases h with h | ⟨k, rfl, hk⟩
    · omega
    · simp [hk]
  · rfl

/-! ## Handles -/

/-- A formed handle is read back as the kind, index and generation it was formed from (R11, R192). -/
theorem parseHandle_formHandle (kind : HandleKind) (i : RecordId) (g : BitVec 8) :
    parseHandle (formHandle kind i g) = some (kind, i, g) := by
  have hi := i.isLt
  have hg := g.isLt
  have hv : (formHandle kind i g).toNat =
      (match kind with | .write => 0 | .read => 32768) + i.val * 256 + g.toNat := by
    simp only [formHandle, BitVec.toNat_ofNat]
    cases kind <;> simp <;> omega
  have h14 : (formHandle kind i g).getLsbD 14 = false := by
    rw [BitVec.getLsbD, hv, Nat.testBit_eq_decide_div_mod_eq]
    cases kind <;> simp <;> omega
  have h15 : (formHandle kind i g).getLsbD 15 = decide (kind = .read) := by
    rw [BitVec.getLsbD, hv, Nat.testBit_eq_decide_div_mod_eq]
    cases kind <;> simp <;> omega
  simp only [parseHandle, h14, h15, Bool.false_eq_true, if_false, Option.some.injEq, Prod.mk.injEq]
  refine ⟨by cases kind <;> simp, ?_, ?_⟩
  · apply Fin.ext
    simp only [hv]
    cases kind <;> simp <;> omega
  · apply BitVec.eq_of_toNat_eq
    simp only [BitVec.toNat_setWidth, hv]
    cases kind <;> simp <;> omega

/-- A port that is the writer of a record holds its write handle (R12). -/
theorem State.handleValid_write {s : State} {p : Port} {i : RecordId} (h : (s.record i).writer = some p) :
    s.handleValid p .write i (s.record i).generation = true := by
  simp [State.handleValid, h]

/-- A port in the hold set of a record holds its read handle (R12). -/
theorem State.handleValid_read {s : State} {p : Port} {i : RecordId} (h : (s.record i).heldBy p = true) :
    s.handleValid p .read i (s.record i).generation = true := by
  simp [State.handleValid, h]

/-- Steps 4 and 6 for a handle whose right the port holds (R12–R14). -/
theorem checkHandle_of_valid {s : State} {p : Port} {h : BitVec 16} {held : HandleKind} {i : RecordId}
    {a : Assignment} {st : Stream} {admits : StreamPhase → Bool} {kind : Option HandleKind}
    (hh : h = formHandle held i (s.record i).generation) (ha : (s.record i).assignment = some a)
    (hs : s.stream a.stream = some st) (hp : admits st.phase = true)
    (hv : s.handleValid p held i (s.record i).generation = true) (hk : kind = none ∨ kind = some held) :
    checkHandle p h admits kind s = .ok { kind := held, index := i, streamId := a.stream, stream := st } := by
  subst hh
  have hkind : (kind.isSome && decide (kind ≠ some held)) = false := by
    rcases hk with rfl | rfl <;> simp
  simp only [checkHandle, parseHandle_formHandle, ha, hs, hp, hv, Bool.not_true, Bool.false_eq_true, if_false]
  simpa using hkind

/-- Steps 4 and 6 for a handle whose right the port does not hold (R14, item 1). -/
theorem checkHandle_of_invalid {s : State} {p : Port} {h : BitVec 16} {held : HandleKind} {i : RecordId}
    {g : BitVec 8} {a : Assignment} {st : Stream} {admits : StreamPhase → Bool} (kind : Option HandleKind)
    (hh : parseHandle h = some (held, i, g)) (ha : (s.record i).assignment = some a)
    (hs : s.stream a.stream = some st) (hp : admits st.phase = true) (hv : s.handleValid p held i g = false) :
    checkHandle p h admits kind s = .error (invalidHandle p h s) := by
  simp [checkHandle, hh, ha, hs, hp, hv]

/-- Steps 4 and 6 for a handle of another kind than the request needs (R14, item 2). -/
theorem checkHandle_of_wrongKind {s : State} {p : Port} {h : BitVec 16} {held kind : HandleKind} {i : RecordId}
    {g : BitVec 8} {a : Assignment} {st : Stream} {admits : StreamPhase → Bool}
    (hh : parseHandle h = some (held, i, g)) (ha : (s.record i).assignment = some a)
    (hs : s.stream a.stream = some st) (hp : admits st.phase = true) (hv : s.handleValid p held i g = true)
    (hk : held ≠ kind) : checkHandle p h admits (some kind) s = .error (s, .refuse .wrongKind) := by
  simp [checkHandle, hh, ha, hs, hp, hv, Ne.symm hk]

/-- A record that is WRITING for a port has that writer and its assignment. -/
theorem BufferRecord.writing_reads {r : BufferRecord} {a : Assignment} {p : Port}
    (h : r.use = .frame a (.writing p)) : r.assignment = some a ∧ r.writer = some p := by
  simp [BufferRecord.assignment, BufferRecord.writer, h]

end Sys2Proof.Machine
end

