-- ==== Sys2Proof/Laws/Bodies.lean ====
section
/-! SUPPORT. The body of every request but ATTACH, DETACH and SET_NOTICE_MASK, and of every internal report,
keeps what `State.Keeps` says. -/

namespace Sys2Proof.Machine

/-! ## Sequences of checks -/

/-- Every answer that ends a sequence of checks early keeps the state's parts. -/
def Checked.Keeps {α : Type} (s : State) (c : Checked α) : Prop := ∀ x, c = .error x → s.Keeps x.1

theorem answer_bind_keeps {α : Type} {s : State} {c : Checked α} {k : α → Checked (State × Reply)}
    (hc : Checked.Keeps s c) (hk : ∀ a, c = .ok a → s.Keeps (answer (k a)).1) :
    s.Keeps (answer (c >>= k)).1 := by
  cases c with
  | error x => exact hc x rfl
  | ok a => exact hk a rfl

theorem check_keeps (b : Bool) (r : Result) (s : State) : Checked.Keeps s (check b r s) := by
  intro x hx
  cases b <;> simp [check] at hx
  subst hx
  exact .refl s

theorem check_ok {b : Bool} {r : Result} {s : State} {u : Unit} (h : check b r s = .ok u) : b = true := by
  cases b
  · cases h
  · rfl

theorem checkSession_keeps (p : Port) (f : RequestFrame) (s : State) : Checked.Keeps s (checkSession p f s) := by
  intro x hx
  unfold checkSession at hx
  by_cases h1 : (s.port p).inForce <;> by_cases h2 : f.session = (s.port p).session <;>
    simp [check, h1, h2, bind, Except.bind] at hx
  all_goals
    subst hx
    exact .refl s

theorem checkStream_keeps (id : Nat) (admits : StreamPhase → Bool) (s : State) :
    Checked.Keeps s (checkStream id admits s) := by
  intro x hx
  unfold checkStream at hx
  split at hx
  · split at hx
    · cases hx
      exact .refl s
    · split at hx <;> cases hx
      exact .refl s
  · cases hx
    exact .refl s

theorem checkStream_ok {id : Nat} {admits : StreamPhase → Bool} {s : State} {k : StreamId} {st : Stream}
    (h : checkStream id admits s = .ok (k, st)) : id = k.val ∧ s.stream k = some st ∧ admits st.phase = true := by
  unfold checkStream at h
  split at h
  · split at h
    · cases h
    · rename_i hs
      split at h <;> cases h
      rename_i ha
      exact ⟨rfl, hs, ha⟩
  · cases h

theorem invalidHandle_keeps (p : Port) (h : BitVec 16) (s : State) : s.Keeps (invalidHandle p h s).1 := by
  unfold invalidHandle
  split
  · exact State.modPort_keeps p _ (fun q => q.forgetExpired_keeps h) s
  · exact .refl s

theorem checkHandle_keeps (p : Port) (h : BitVec 16) (admits : StreamPhase → Bool) (kind : Option HandleKind)
    (s : State) : Checked.Keeps s (checkHandle p h admits kind s) := by
  intro x hx
  have hi := invalidHandle_keeps p h s
  unfold checkHandle at hx
  split at hx
  · cases hx
    exact hi
  split at hx
  · cases hx
    exact hi
  split at hx
  · cases hx
    exact .refl s
  split at hx
  · cases hx
    exact .refl s
  split at hx
  · cases hx
    exact hi
  split at hx
  · cases hx
    exact .refl s
  · cases hx

theorem checkDescriptor_keeps (j : Option Nat) (r : Result) (s : State) :
    Checked.Keeps s (checkDescriptor j r s) := by
  intro x hx
  cases j <;> cases hx
  exact .refl s

theorem checkDescriptor_ok {j : Option Nat} {r : Result} {s : State} {u : Unit}
    (h : checkDescriptor j r s = .ok u) : j = none := by
  cases j
  · rfl
  · cases h

/-! ## Opening -/

/-- Two regions overlap one way round as the other (R16). -/
theorem Region.overlaps_comm (x y : Region) : x.overlaps y = y.overlaps x := by
  simp only [Region.overlaps]
  exact Bool.and_comm _ _

/-- Without a conflict no descriptor overlaps a region taken before, and no two descriptors overlap (R18). -/
theorem firstConflict_none {taken ds : List Region} {j : Nat} (h : firstConflict taken ds j = none) :
    (∀ d ∈ ds, ∀ x ∈ taken, d.overlaps x = false) ∧ ds.Pairwise fun x y => y.overlaps x = false := by
  induction ds generalizing taken j with
  | nil => simp
  | cons d ds ih =>
    simp only [firstConflict] at h
    split at h
    · cases h
    · rename_i hd
      simp only [List.any_eq_true, not_exists, not_and, Bool.not_eq_true] at hd
      obtain ⟨h1, h2⟩ := ih h
      refine ⟨?_, ?_⟩
      · intro e he x hx
        rcases List.mem_cons.1 he with rfl | he
        · exact hd x hx
        · exact h1 e he x (List.mem_cons_of_mem _ hx)
      · exact List.pairwise_cons.2 ⟨fun e he => h1 e he d List.mem_cons_self, h2⟩

/-- Assigning frame buffers writes the records of its pairs and no others (R5, R29). -/
theorem State.assignFrames_record (k : StreamId) (pairs : List (RecordId × Region))
    (hn : (pairs.map Prod.fst).Nodup) (s : State) (i : RecordId) :
    (∀ d, (i, d) ∈ pairs → (pairs.foldl (fun s x => s.assignFrame k x) s).record i =
      { s.record i with fill := .noJob, use := .frame (d.assign k) .free }) ∧
    (i ∉ pairs.map Prod.fst → (pairs.foldl (fun s x => s.assignFrame k x) s).record i = s.record i) := by
  induction pairs generalizing s with
  | nil => simp
  | cons x xs ih =>
    obtain ⟨j, e⟩ := x
    simp only [List.map_cons, List.nodup_cons] at hn
    obtain ⟨h1, h2⟩ := ih hn.2 (s.assignFrame k (j, e))
    simp only [List.foldl_cons]
    refine ⟨fun d hd => ?_, fun hi => ?_⟩
    · rcases List.mem_cons.1 hd with hd | hd
      · cases hd
        rw [h2 hn.1]
        simp [State.assignFrame, State.modRecord]
      · have hne : j ≠ i := by
          rintro rfl
          exact hn.1 (List.mem_map_of_mem hd)
        rw [h1 d hd]
        simp [State.assignFrame, State.modRecord, hne]
    · simp only [List.map_cons, List.mem_cons, not_or] at hi
      rw [h2 hi.2]
      simp [State.assignFrame, State.modRecord, Ne.symm hi.1]

/-- Assigning frame buffers changes nothing but records. -/
theorem State.assignFrames_frame (k : StreamId) (pairs : List (RecordId × Region)) (s : State) :
    pairs.foldl (fun s x => s.assignFrame k x) s =
      { s with records := (pairs.foldl (fun s x => s.assignFrame k x) s).records } := by
  induction pairs generalizing s with
  | nil => rfl
  | cons x xs ih =>
    rw [List.foldl_cons, ih]
    rfl

theorem State.unassigned_nodup (s : State) : s.unassigned.Nodup :=
  List.Nodup.filter _ (List.nodup_finRange 64)

theorem State.mem_unassigned (s : State) (i : RecordId) : i ∈ s.unassigned ↔ (s.record i).use = .unassigned := by
  simp only [State.unassigned, List.mem_filter, allRecords, List.mem_finRange, true_and,
    BufferRecord.isUnassigned, BufferRecord.assignment]
  cases (s.record i).use <;> simp

/-! ## What a record reads when it is assigned (R5, R17) -/

/-- A descriptor in bounds is held whole by an assignment. -/
theorem Region.assign_region {d : Region} (h : d.inBounds = true) (k : StreamId) :
    ({ base := (d.assign k).base.toNat, length := (d.assign k).length.toNat } : Region) = d := by
  simp only [Region.inBounds, Bool.and_eq_true, decide_eq_true_eq] at h
  obtain ⟨⟨⟨⟨-, -⟩, h1⟩, h2⟩, h3⟩ := h
  have ha : Config.minLength = 4096 := rfl
  have hb : Config.maxLength = 67108864 := rfl
  have hc : Config.addressTop = 1099511627776 := rfl
  cases d
  simp only [Region.assign, BitVec.toNat_ofNat, Region.mk.injEq]
  constructor <;> apply Nat.mod_eq_of_lt <;> simp only at h1 h2 h3 <;> omega

theorem State.mem_regionMap {s : State} {i : RecordId} {x : Region} (h : (s.record i).region = some x) :
    x ∈ s.regionMap := by
  simp only [State.regionMap, List.mem_filterMap, allRecords, List.mem_finRange, true_and]
  exact ⟨i, h⟩

theorem zip_fst_sublist {α β : Type} (l : List α) (m : List β) : ((l.zip m).map Prod.fst).Sublist l := by
  induction l generalizing m with
  | nil => simp
  | cons a l ih =>
    cases m with
    | nil => simp
    | cons b m => simpa using ih m

/-- The records that an OPEN_STREAM assigns, with their descriptors. -/
def State.openPairs (s : State) (f : RequestFrame) : List (RecordId × Region) := s.unassigned.zip f.descriptors

/-- A record after an OPEN_STREAM has the region it had, or the region of the descriptor paired with it. -/
theorem State.openStream_region (p : Port) (f : RequestFrame) (k : StreamId) (s : State)
    (hd : ∀ d ∈ f.descriptors, d.inBounds = true) (i : RecordId) :
    ((s.openStream p f k).record i).region = (s.record i).region ∨
      ∃ d, (i, d) ∈ s.openPairs f ∧ ((s.openStream p f k).record i).region = some d := by
  have hpairs : ∀ x ∈ s.openPairs f, x.2.inBounds = true := fun x hx => hd _ (List.of_mem_zip hx).2
  have hn : ((s.openPairs f).map Prod.fst).Nodup := by
    exact s.unassigned_nodup.sublist (zip_fst_sublist _ _)
  have hregion : ∀ (u : State) (d : Region), d.inBounds = true → (u.record i).assignment = some (d.assign k) →
      (u.record i).region = some d := by
    intro u d hb ha
    rw [BufferRecord.region, ha, Option.map_some, Region.assign_region hb]
  have hframes : ∀ u : State,
      u.record i = (((s.openPairs f).take f.frameCount).foldl (fun s x => s.assignFrame k x) s).record i →
      (u.record i).region = (s.record i).region ∨
        ∃ d, (i, d) ∈ s.openPairs f ∧ (u.record i).region = some d := by
    intro u hu
    have hsub := List.take_sublist f.frameCount (s.openPairs f)
    obtain ⟨h1, h2⟩ := State.assignFrames_record k _ (hn.sublist (hsub.map _)) s i
    by_cases hi : i ∈ ((s.openPairs f).take f.frameCount).map Prod.fst
    · obtain ⟨⟨j, d⟩, hm, rfl⟩ := List.mem_map.1 hi
      exact .inr ⟨d, hsub.subset hm, hregion _ d (hpairs _ (hsub.subset hm)) (by rw [hu, h1 d hm]; rfl)⟩
    · exact .inl (by rw [hu, h2 hi])
  simp only [State.openStream]
  split
  · split
    · rename_i x xs hx
      have hmem : x ∈ s.openPairs f := (List.drop_sublist _ _).subset (hx ▸ List.mem_cons_self)
      by_cases hi : x.1 = i
      · subst hi
        refine .inr ⟨x.2, hmem, hregion _ x.2 (hpairs _ hmem) ?_⟩
        simp [State.assignFallback, State.submitFill, State.modRecord, fallbackOrder, BufferRecord.setFill,
          BufferRecord.assignment]
      · have : ∀ u : State, ((u.assignFallback k p (BitVec.ofNat 32 (f.field 14 4)) x).record i) = u.record i := by
          intro u
          simp [State.assignFallback, State.submitFill, State.modRecord, fallbackOrder, hi]
        rw [this]
        exact hframes _ rfl
    · exact hframes _ rfl
  · exact hframes _ rfl

/-- OPEN_STREAM keeps the region map free of overlap (R16, R18, R29). -/
theorem State.openStream_regions (p : Port) (f : RequestFrame) (k : StreamId) (s : State)
    (hd : ∀ d ∈ f.descriptors, d.inBounds = true) (hc : firstConflict s.regionMap f.descriptors 0 = none)
    (hs : s.RegionsDisjoint) : (s.openStream p f k).RegionsDisjoint := by
  obtain ⟨hc1, hc2⟩ := firstConflict_none hc
  intro i j hij x y hx hy
  have hold : ∀ (i : RecordId) d x, (i, d) ∈ s.openPairs f → (s.record i).region = some x → False := by
    intro i d x hm hr
    have := (s.mem_unassigned i).1 (List.of_mem_zip hm).1
    rw [BufferRecord.region, BufferRecord.assignment, this] at hr
    cases hr
  rcases s.openStream_region p f k hd i with hi | ⟨d, hmi, hi⟩ <;>
    rcases s.openStream_region p f k hd j with hj | ⟨e, hmj, hj⟩
  · exact hs i j hij x y (hi ▸ hx) (hj ▸ hy)
  · rw [hj] at hy
    cases hy
    rw [Region.overlaps_comm]
    exact hc1 y (List.of_mem_zip hmj).2 x (s.mem_regionMap (hi ▸ hx))
  · rw [hi] at hx
    cases hx
    exact hc1 x (List.of_mem_zip hmi).2 y (s.mem_regionMap (hj ▸ hy))
  · rw [hi] at hx
    rw [hj] at hy
    cases hx
    cases hy
    obtain ⟨m, hm⟩ := List.mem_iff_getElem?.1 hmi
    obtain ⟨n, hn⟩ := List.mem_iff_getElem?.1 hmj
    obtain ⟨hm1, hm2⟩ := List.getElem?_zip_eq_some.1 hm
    obtain ⟨hn1, hn2⟩ := List.getElem?_zip_eq_some.1 hn
    have hne : m ≠ n := by
      rintro rfl
      exact hij (Option.some.inj (hm1.symm.trans hn1))
    obtain ⟨hml, rfl⟩ := List.getElem?_eq_some_iff.1 hm2
    obtain ⟨hnl, rfl⟩ := List.getElem?_eq_some_iff.1 hn2
    rcases Nat.lt_or_gt_of_ne hne with h | h
    · rw [Region.overlaps_comm]
      exact List.pairwise_iff_getElem.1 hc2 m n hml hnl h
    · exact List.pairwise_iff_getElem.1 hc2 n m hnl hml h

/-- Assigning records changes nothing of the machine's other parts but, with a fallback, the job queue. -/
theorem State.openStream_keeps (p : Port) (f : RequestFrame) (k : StreamId) (s : State)
    (hd : ∀ d ∈ f.descriptors, d.inBounds = true) (hc : firstConflict s.regionMap f.descriptors 0 = none)
    (hf : f.hasFallback = true → s.engine.jobs.length < 8) : s.Keeps (s.openStream p f k) := by
  have hregions := s.openStream_regions p f k hd hc
  have hframe := State.assignFrames_frame k ((s.unassigned.zip f.descriptors).take f.frameCount) s
  simp only [State.openStream] at hregions ⊢
  generalize ((s.unassigned.zip f.descriptors).take f.frameCount).foldl (fun s x => State.assignFrame k x s) s = u
    at hregions hframe ⊢
  have hsame : ∀ v : State, v = { u with streams := v.streams, trackers := v.trackers } →
      (s.RegionsDisjoint → v.RegionsDisjoint) → s.Keeps v := by
    intro v hv hr
    rw [hv, hframe]
    refine ⟨rfl, rfl, rfl, rfl, rfl, rfl, fun _ => .refl _, id, id, id, fun h => ?_⟩
    have := hr h
    rw [hv, hframe] at this
    exact this
  split
  · rename_i hfb
    split
    · rename_i x xs hx
      rw [if_pos hfb] at hregions
      simp only [hx] at hregions
      have hj := hf hfb
      have heng : u.engine = s.engine := by rw [hframe]
      have hl := FillEngine.submit_jobs_length
      refine ⟨?_, ?_, ?_, ?_, ?_, ?_, fun q => ?_, ?_, fun _ => ?_, fun hco => ?_, hregions⟩
      · rw [hframe]; rfl
      · rw [hframe]; rfl
      · rw [hframe]; rfl
      · rw [hframe]; rfl
      · rw [hframe]; rfl
      · rw [hframe]; rfl
      · rw [hframe]
        exact .refl _
      · rw [hframe]
        exact id
      · simp only [State.assignFallback, State.submitFill, State.modRecord, State.setRecord_engine,
          State.setEngine_engine, State.setTracker_engine, State.setStream_engine, hl, heng]
        omega
      · simp only [State.assignFallback, State.submitFill, State.modRecord, State.setRecord_engine,
          State.setEngine_engine, State.setTracker_engine, State.setStream_engine, heng]
        exact FillEngine.submit_coherent _ _ _ hco hj
    · rename_i hx
      rw [if_pos hfb] at hregions
      simp only [hx] at hregions
      exact hsame _ rfl hregions
  · rename_i hfb
    rw [if_neg hfb] at hregions
    exact hsame _ rfl hregions

/-! ## Bodies of requests -/

theorem openStreamRequest_keeps (p : Port) (f : RequestFrame) (t : Time) (s : State) :
    s.Keeps (openStreamRequest p f t s).1 := by
  refine answer_bind_keeps (checkSession_keeps p f s) fun _ _ => answer_bind_keeps (check_keeps _ _ s) fun _ _ =>
    answer_bind_keeps (checkDescriptor_keeps _ _ s) fun _ hb => answer_bind_keeps (checkDescriptor_keeps _ _ s)
    fun _ hc => answer_bind_keeps (check_keeps _ _ s) fun _ _ => ?_
  split
  · exact .refl s
  · refine answer_bind_keeps (check_keeps _ _ s) fun _ _ => answer_bind_keeps (check_keeps _ _ s) fun _ hq => ?_
    refine s.openStream_keeps p f _ ?_ (checkDescriptor_ok hc) fun hf => ?_
    · simpa [List.findIdx?_eq_none_iff] using checkDescriptor_ok hb
    · have := check_ok hq
      simpa [hf, FillEngine.isFull, Config.fillJobs] using this

theorem closeStreamRequest_keeps (p : Port) (f : RequestFrame) (t : Time) (s : State) :
    s.Keeps (closeStreamRequest p f t s).1 := by
  refine answer_bind_keeps (checkSession_keeps p f s) fun _ _ =>
    answer_bind_keeps (checkStream_keeps _ _ s) fun _ _ => answer_bind_keeps (check_keeps _ _ s) fun _ _ => ?_
  exact State.enterClosing_keeps _ _ s

theorem joinRequest_keeps (p : Port) (f : RequestFrame) (t : Time) (s : State) :
    s.Keeps (joinRequest p f t s).1 := by
  refine answer_bind_keeps (checkSession_keeps p f s) fun _ _ => answer_bind_keeps (check_keeps _ _ s) fun _ _ =>
    answer_bind_keeps (checkStream_keeps _ _ s) fun a _ => answer_bind_keeps (check_keeps _ _ s) fun _ _ =>
    answer_bind_keeps (check_keeps _ _ s) fun _ _ => answer_bind_keeps (check_keeps _ _ s) fun _ _ =>
    answer_bind_keeps (check_keeps _ _ s) fun _ _ => answer_bind_keeps (check_keeps _ _ s) fun _ _ => ?_
  obtain ⟨k, st⟩ := a
  simp only [answer_ok, State.joinStream]
  have h := s.setStream_keeps k (some { st with consumers := st.consumers ++ [f.newConsumer p st s] })
  split
  · exact (h.trans (State.Keeps.foldl _ (fun u i => State.modRecord_keeps i
      (BufferRecord.mapPending fun x => x.add p) (fun r => .inl (r.region_mapPending _)) u) _ _)).trans
      (State.notify_keeps _ (by decide) _ _ _)
  · exact h.trans (State.notify_keeps _ (by decide) _ _ _)

theorem leaveRequest_keeps (p : Port) (f : RequestFrame) (t : Time) (s : State) :
    s.Keeps (leaveRequest p f t s).1 := by
  refine answer_bind_keeps (checkSession_keeps p f s) fun _ _ =>
    answer_bind_keeps (checkStream_keeps _ _ s) fun _ _ => answer_bind_keeps (check_keeps _ _ s) fun _ _ => ?_
  exact s.depart_keeps p _

/-- A check against the lease table that passes finds room (R98). -/
theorem State.leaseRoom_of_check {s : State} {units : BitVec 16} {u : Unit} {r : Result}
    (h : check (!s.leaseRefused units) r s = .ok u) : s.LeaseRoom units := by
  have := check_ok h
  simp only [State.leaseRefused, Bool.not_eq_true', Bool.and_eq_false_iff, decide_eq_false_iff_not] at this
  rcases this with h | h
  · exact .inl (by simpa using h)
  · exact .inr (by simpa [Config.leaseEntries] using h)

theorem State.grantWrite_keeps (p : Port) (k : StreamId) (st : Stream) (c : WriteChoice) (s : State)
    (h : s.LeaseRoom st.writeLease) : s.Keeps (s.grantWrite p k st c) := by
  have tail : ∀ u : State, s.Keeps u → u.leases = s.leases →
      s.Keeps (((((u.modRecord c.index fun r => (r.toFrame (.writing p)).raise).grantLease .write c.index p
        st.writeLease).modStream k fun st => { st with producerWaiting := false }).modPort p
        (AgentPort.forgetExpired (formHandle .write c.index ((((u.modRecord c.index
          fun r => (r.toFrame (.writing p)).raise).grantLease .write c.index p st.writeLease).modStream k
          fun st => { st with producerWaiting := false }).record c.index).generation)))) := by
    intro u hu hl
    have h1 := hu.trans (State.modRecord_keeps c.index (fun r => (r.toFrame (.writing p)).raise)
      (fun r => .inl ((r.toFrame _).region_raise.trans (r.region_toFrame _))) u)
    have h2 := h1.trans (State.grantLease_keeps .write c.index p st.writeLease _ (by
      rcases h with h | h
      · exact .inl h
      · refine .inr ?_
        show u.leases.length < 128
        rw [hl]
        exact h))
    exact (h2.trans (State.modStream_keeps k _ _)).trans
      (State.modPort_keeps p _ (fun q => q.forgetExpired_keeps _) _)
  cases c with
  | head i => exact tail _ (s.modStream_keeps k _) rfl
  | victim i =>
    refine tail _ ((s.setStream_keeps k _).trans (State.notifyEach_keeps _ (by decide) _ _ _)) ?_
    simp only [State.dropVictim, State.notifyEach]
    exact List.foldlRecOn (motive := fun u : State => u.leases = s.leases) _ _ rfl fun u hu _ _ => hu

theorem acquireWriteRequest_keeps (p : Port) (f : RequestFrame) (t : Time) (s : State) :
    s.Keeps (acquireWriteRequest p f t s).1 := by
  refine answer_bind_keeps (checkSession_keeps p f s) fun _ _ => answer_bind_keeps (checkStream_keeps _ _ s)
    fun a _ => answer_bind_keeps (check_keeps _ _ s) fun _ _ => answer_bind_keeps (check_keeps _ _ s) fun _ _ => ?_
  obtain ⟨k, st⟩ := a
  simp only
  split
  · exact s.modStream_keeps k _
  · exact answer_bind_keeps (check_keeps _ _ s) fun _ hl => s.grantWrite_keeps p k st _ (State.leaseRoom_of_check hl)

theorem State.placeFrame_keeps (x : HandleTarget) (m : FrameStamp) (s : State) : s.Keeps (s.placeFrame x m) := by
  unfold State.placeFrame
  split
  · split
    · exact (s.modStream_keeps _ _).trans (State.becomeFree_keeps _ _ _)
    · exact ((State.modRecord_keeps _ _ (fun r => .inl (r.region_toFrame _)) s).trans
        (State.modStream_keeps _ _ _)).trans (State.notifyEach_keeps _ (by decide) _ _ _)
  · have hsup : s.Keeps (s.supersede x) := by
      unfold State.supersede
      split
      · exact .refl s
      · exact (s.modStream_keeps _ _).trans (State.retire_keeps _ _ _)
    exact ((hsup.trans (State.modRecord_keeps _ _ (fun r => .inl (r.region_toFrame _)) _)).trans
      (State.modStream_keeps _ _ _)).trans (State.notifyEach_keeps _ (by decide) _ _ _)

theorem publishRequest_keeps (p : Port) (f : RequestFrame) (t : Time) (s : State) :
    s.Keeps (publishRequest p f t s).1 := by
  refine answer_bind_keeps (checkSession_keeps p f s) fun _ _ =>
    answer_bind_keeps (checkHandle_keeps _ _ _ _ s) fun _ _ => answer_bind_keeps (check_keeps _ _ s) fun _ _ => ?_
  exact (((s.endLease_keeps _ p).trans (State.modStream_keeps _ _ _)).trans (State.modTracker_keeps _ _ _)).trans
    (State.placeFrame_keeps _ _ _)

theorem discardRequest_keeps (p : Port) (f : RequestFrame) (t : Time) (s : State) :
    s.Keeps (discardRequest p f t s).1 := by
  refine answer_bind_keeps (checkSession_keeps p f s) fun _ _ =>
    answer_bind_keeps (checkHandle_keeps _ _ _ _ s) fun _ _ => ?_
  exact s.endWriteHandle_keeps _ p _

/-- A check against the job queue that passes finds room (R28, R142, R144). -/
theorem FillEngine.room_of_check {s : State} {u : Unit} {r : Result}
    (h : check (!s.engine.isFull) r s = .ok u) : s.engine.jobs.length < 8 := by
  simpa [FillEngine.isFull, Config.fillJobs] using check_ok h

theorem fillRequest_keeps (p : Port) (f : RequestFrame) (t : Time) (s : State) :
    s.Keeps (fillRequest p f t s).1 := by
  refine answer_bind_keeps (checkSession_keeps p f s) fun _ _ => answer_bind_keeps (check_keeps _ _ s) fun _ _ =>
    answer_bind_keeps (checkHandle_keeps _ _ _ _ s) fun _ _ => answer_bind_keeps (check_keeps _ _ s) fun _ _ =>
    answer_bind_keeps (check_keeps _ _ s) fun _ _ => answer_bind_keeps (check_keeps _ _ s) fun _ hj => ?_
  exact s.submitFill_keeps _ (FillEngine.room_of_check hj)

theorem refillFallbackRequest_keeps (p : Port) (f : RequestFrame) (t : Time) (s : State) :
    s.Keeps (refillFallbackRequest p f t s).1 := by
  refine answer_bind_keeps (checkSession_keeps p f s) fun _ _ => answer_bind_keeps (checkStream_keeps _ _ s)
    fun a _ => answer_bind_keeps (check_keeps _ _ s) fun _ _ => ?_
  split
  · exact .refl s
  · refine answer_bind_keeps (check_keeps _ _ s) fun _ _ => answer_bind_keeps (check_keeps _ _ s) fun _ _ =>
      answer_bind_keeps (check_keeps _ _ s) fun _ hj => ?_
    have hroom := FillEngine.room_of_check hj
    exact ((s.modStream_keeps _ _).trans (State.modRecord_keeps _ _ (fun r => .inl (r.region_setCondition _)) _)).trans
      (State.submitFill_keeps _ _ hroom)

theorem State.takeRead_keeps (p : Port) (k : StreamId) (c : ReadChoice) (s : State) : s.Keeps (s.takeRead p k c) := by
  have hq : ∀ i, s.Keeps (s.takeQueued p k i) := by
    intro i
    have h := State.modRecord_keeps i (fun r => (r.mapPending fun x => x.drop p).mapHold fun x => x.add p)
      (fun r => .inl ((BufferRecord.region_mapHold _ _).trans (r.region_mapPending _))) s
    simp only [State.takeQueued]
    split
    · exact h
    · split
      · exact (h.trans (State.modStream_keeps _ _ _)).trans
          (State.modRecord_keeps _ _ (fun r => .inl r.region_toDraining) _)
      · exact h
  cases c with
  | queued i => exact hq i
  | fallback i => exact State.modRecord_keeps _ _ (fun r => .inl (r.region_mapHold _)) s
  | latest i r => exact State.modRecord_keeps _ _ (fun r => .inl (r.region_mapHold _)) s

/-- Taking a record for a port leaves the lease table alone (R72, R75, R76). -/
theorem State.takeRead_leases (p : Port) (k : StreamId) (c : ReadChoice) (s : State) :
    (s.takeRead p k c).leases = s.leases := by
  cases c with
  | queued i =>
    simp only [State.takeRead, State.takeQueued]
    split
    · rfl
    · split <;> rfl
  | fallback i => rfl
  | latest i r => rfl

theorem State.grantRead_keeps (p : Port) (k : StreamId) (st : Stream) (c : ReadChoice) (s : State)
    (h : s.LeaseRoom st.readLease) : s.Keeps (s.grantRead p k st c) := by
  have h1 := (s.takeRead_keeps p k c).trans
    (State.modStream_keeps k (Stream.modConsumer p (Consumer.given (s.deliveredSequence c))) _)
  have h2 := h1.trans (State.grantLease_keeps .read c.index p st.readLease _ (by
    rcases h with h | h
    · exact .inl h
    · refine .inr ?_
      show (s.takeRead p k c).leases.length < 128
      rw [State.takeRead_leases]
      exact h))
  exact h2.trans (State.modPort_keeps p _ (fun q => q.forgetExpired_keeps _) _)

theorem acquireReadRequest_keeps (p : Port) (f : RequestFrame) (t : Time) (s : State) :
    s.Keeps (acquireReadRequest p f t s).1 := by
  refine answer_bind_keeps (checkSession_keeps p f s) fun _ _ =>
    answer_bind_keeps (checkStream_keeps _ _ s) fun a _ => ?_
  obtain ⟨k, st⟩ := a
  simp only
  split
  · exact .refl s
  · refine answer_bind_keeps (check_keeps _ _ s) fun _ _ => ?_
    split
    · exact .refl s
    · exact answer_bind_keeps (check_keeps _ _ s) fun _ hl => s.grantRead_keeps p k st _ (State.leaseRoom_of_check hl)

theorem releaseRequest_keeps (p : Port) (f : RequestFrame) (t : Time) (s : State) :
    s.Keeps (releaseRequest p f t s).1 := by
  refine answer_bind_keeps (checkSession_keeps p f s) fun _ _ =>
    answer_bind_keeps (checkHandle_keeps _ _ _ _ s) fun _ _ => ?_
  exact (s.releaseHold_keeps _ p _).trans (State.completionCheck_keeps _ _)

theorem renewRequest_keeps (p : Port) (f : RequestFrame) (t : Time) (s : State) :
    s.Keeps (renewRequest p f t s).1 := by
  refine answer_bind_keeps (checkSession_keeps p f s) fun _ _ =>
    answer_bind_keeps (checkHandle_keeps _ _ _ _ s) fun _ _ => ?_
  simp only
  split
  · exact .refl s
  · exact s.setLeases_keeps _ (renewLease_length_le _ _ _ _ _).trans

theorem queryStreamRequest_keeps (p : Port) (f : RequestFrame) (t : Time) (s : State) :
    s.Keeps (queryStreamRequest p f t s).1 :=
  answer_bind_keeps (checkSession_keeps p f s) fun _ _ => answer_bind_keeps (checkStream_keeps _ _ s)
    fun _ _ => .refl s

theorem queryBufferRequest_keeps (p : Port) (f : RequestFrame) (t : Time) (s : State) :
    s.Keeps (queryBufferRequest p f t s).1 := by
  refine answer_bind_keeps (checkSession_keeps p f s) fun _ _ => ?_
  split
  · exact .refl s
  · exact .refl s

theorem queryDeviceRequest_keeps (p : Port) (f : RequestFrame) (t : Time) (s : State) :
    s.Keeps (queryDeviceRequest p f t s).1 :=
  answer_bind_keeps (checkSession_keeps p f s) fun _ _ => .refl s

/-! ## Internal reports -/

theorem State.notifyFill_keeps (r : FillReport) (k : StreamId) (s : State) : s.Keeps (s.notifyFill r k) := by
  have hkind : ∀ kind detail, fillNotice r = some (kind, detail) → kind ≠ .overflow := by
    intro kind detail h
    unfold fillNotice at h
    split at h <;> cases h <;> decide
  unfold State.notifyFill
  split
  · exact .refl s
  · rename_i kind detail h
    exact s.notify_keeps _ (hkind kind detail h) _ _

theorem State.applyFallbackFill_keeps (r : FillReport) (k : StreamId) (s : State) :
    s.Keeps (s.applyFallbackFill r k) := by
  have hval : s.Keeps (s.validateFallback r.index) :=
    State.modRecord_keeps _ _ (fun x => .inl ((x.setCondition .valid).region_raise.trans
      (x.region_setCondition .valid))) s
  have hinv : s.Keeps (s.modRecord r.index (BufferRecord.setCondition .invalid)) :=
    State.modRecord_keeps _ _ (fun x => .inl (x.region_setCondition _)) s
  have hrefill : ∀ st, s.Keeps (s.applyRefill r k st) := by
    intro st
    simp only [State.applyRefill]
    split
    · refine State.Keeps.trans ?_ (State.notifyFill_keeps r k _)
      split
      · exact hval
      · exact hinv
      · exact .refl s
    · split
      · exact hval
      · exact hinv
      · exact .refl s
  unfold State.applyFallbackFill
  split
  · exact .refl s
  · split
    · unfold State.applyOpenFill
      split
      · exact (hval.trans (State.modStream_keeps _ _ _)).trans (State.notify_keeps _ (by decide) _ _ _)
      · exact (hinv.trans (State.notify_keeps _ (by decide) _ _ _)).trans (State.enterClosing_keeps _ _ _)
      · exact .refl s
    · exact hrefill _
    · exact hrefill _
    · exact .refl s

/-- A taken fill report keeps the machine's other parts (R140, R141, R145). -/
theorem State.takeFillReport_keeps (r : FillReport) (s : State) : s.Keeps (s.takeFillReport r) := by
  have happly : ∀ k, s.Keeps (s.applyFill r k) := by
    intro k
    have h := State.modRecord_keeps r.index (BufferRecord.setFill .noJob) (fun x => .inl (x.region_setFill _)) s
    simp only [State.applyFill]
    split
    · simp only [State.applyFrameFill]
      split
      · exact h.trans (State.becomeFree_keeps _ _ _)
      · exact h.trans (State.notifyFill_keeps _ _ _)
    · exact h.trans (State.applyFallbackFill_keeps _ _ _)
  simp only [State.takeFillReport]
  split
  · exact .refl s
  · split
    · exact (happly _).trans (State.completionCheck_keeps _ _)
    · exact s.completionCheck_keeps _

theorem State.recordExpiry_keeps (e : LeaseEntry) (k : StreamId) (s : State) : s.Keeps (s.recordExpiry e k) := by
  refine State.Keeps.trans (State.modPort_keeps e.port _ (fun q => q.recordExpired_keeps e.handle) s) ?_
  exact State.notify_keeps _ (by cases e.kind <;> decide) _ _ _

/-- A taken write expiry keeps the machine's other parts (R103, R105). -/
theorem State.reclaimWrite_keeps (e : LeaseEntry) (k : StreamId) (s : State) : s.Keeps (s.reclaimWrite e k) := by
  unfold State.reclaimWrite
  split
  · exact s.endWriting_keeps _ _
  · exact .refl s

/-- A taken cadence report keeps the machine's other parts (R127). -/
theorem State.takeCadence_keeps (t : Time) (k : StreamId) (late : Nat) (change : Option StateChange)
    (interval : Option Nat) (s : State) : s.Keeps (s.takeCadence t k late change interval) := by
  have hone : ∀ (p : Port) (u : State), u.Keeps (u.notifyCadence t k late change interval p) := by
    intro p u
    have h : u.Keeps (if late = 0 then u else u.notifyAt t p .frameLate k (some (BitVec.ofNat 32 late))) := by
      split
      · exact .refl u
      · exact u.notifyAt_keeps _ _ (by decide) _ _
    simp only [State.notifyCadence]
    split
    · exact h
    · rename_i c
      refine h.trans (State.notifyAt_keeps _ _ ?_ _ _ _)
      cases c <;> simp [changeNotice]
  unfold State.takeCadence
  split
  · exact .refl s
  · exact State.Keeps.foldl _ (fun u p => hone p u) _ s

end Sys2Proof.Machine
end

