-- ==== Sys2Proof/Laws/Departures.lean ====
section
/-! SUPPORT. What the procedures of one stream leave alone: other streams and trackers, every generation and
expired-handle list; and that they add no member to their stream, assign no record, and give no hold. -/

namespace Sys2Proof.Machine

/-- What a procedure of stream `k` can do outside the capacities: it changes no other stream or tracker, no
generation and no expired-handle list, gives the stream no new member, assigns no record, gives no hold and
makes no frame owed. -/
structure State.Within (k : StreamId) (s u : State) : Prop where
  streams : ∀ j, j ≠ k → u.stream j = s.stream j
  trackers : ∀ j, j ≠ k → u.tracker j = s.tracker j
  generation : ∀ i, (u.record i).generation = (s.record i).generation
  assignment : ∀ i, (u.record i).assignment = (s.record i).assignment ∨ (u.record i).assignment = none
  held : ∀ i p, (u.record i).heldBy p = true → (s.record i).heldBy p = true
  owed : ∀ i p, (u.record i).owedTo p = true → (s.record i).owedTo p = true
  expired : ∀ p, (u.port p).expired = (s.port p).expired
  members : ∀ st', u.stream k = some st' → ∃ st, s.stream k = some st ∧ st'.producer = st.producer ∧
    (st'.producerPresent = true → st.producerPresent = true) ∧
    ∀ c' ∈ st'.consumers, ∃ c ∈ st.consumers, c.port = c'.port

theorem State.Within.refl (k : StreamId) (s : State) : s.Within k s :=
  ⟨fun _ _ => rfl, fun _ _ => rfl, fun _ => rfl, fun _ => .inl rfl, fun _ _ h => h, fun _ _ h => h, fun _ => rfl,
    fun st h => ⟨st, h, rfl, id, fun c hc => ⟨c, hc, rfl⟩⟩⟩

theorem State.Within.trans {k : StreamId} {s t u : State} (h : State.Within k s t) (h' : State.Within k t u) :
    State.Within k s u where
  streams j hj := (h'.streams j hj).trans (h.streams j hj)
  trackers j hj := (h'.trackers j hj).trans (h.trackers j hj)
  generation i := (h'.generation i).trans (h.generation i)
  assignment i := by
    rcases h'.assignment i with h2 | h2
    · rw [h2]
      exact h.assignment i
    · exact .inr h2
  held i p := h.held i p ∘ h'.held i p
  owed i p := h.owed i p ∘ h'.owed i p
  expired p := (h'.expired p).trans (h.expired p)
  members st'' hs'' := by
    obtain ⟨st', hs', hp', hx', hc'⟩ := h'.members st'' hs''
    obtain ⟨st, hs, hp, hx, hc⟩ := h.members st' hs'
    refine ⟨st, hs, hp'.trans hp, hx ∘ hx', fun c'' hm => ?_⟩
    obtain ⟨c', hm', he'⟩ := hc' c'' hm
    obtain ⟨c, hm, he⟩ := hc c' hm'
    exact ⟨c, hm, he.trans he'⟩

theorem State.Within.foldl {α : Type} {k : StreamId} (f : State → α → State)
    (hf : ∀ (s : State) a, State.Within k s (f s a)) (l : List α) (s : State) :
    State.Within k s (l.foldl f s) := by
  induction l generalizing s with
  | nil => exact .refl k s
  | cons a l ih => exact (hf s a).trans (ih _)

/-! ## Single updates -/

/-- An update of the stream's own context that adds no member. -/
theorem State.setStream_within (k : StreamId) (c : Option Stream) (s : State)
    (h : ∀ st', c = some st' → ∃ st, s.stream k = some st ∧ st'.producer = st.producer ∧
      (st'.producerPresent = true → st.producerPresent = true) ∧
      ∀ c' ∈ st'.consumers, ∃ c ∈ st.consumers, c.port = c'.port) : State.Within k s (s.setStream k c) :=
  ⟨fun j hj => State.setStream_stream_ne s k c j hj.symm, fun _ _ => rfl, fun _ => rfl, fun _ => .inl rfl,
    fun _ _ h => h, fun _ _ h => h, fun _ => rfl, fun st' hs => h st' (by rwa [State.setStream_stream_self] at hs)⟩

theorem State.modStream_within (k : StreamId) (f : Stream → Stream)
    (hf : ∀ st : Stream, (f st).producer = st.producer ∧ ((f st).producerPresent = true → st.producerPresent = true) ∧
      ∀ c' ∈ (f st).consumers, ∃ c ∈ st.consumers, c.port = c'.port) (s : State) :
    State.Within k s (s.modStream k f) := by
  refine s.setStream_within k _ fun st' h => ?_
  cases hs : s.stream k with
  | none =>
    rw [hs] at h
    cases h
  | some st =>
    rw [hs] at h
    cases h
    exact ⟨st, rfl, hf st⟩

theorem State.setTracker_within (k : StreamId) (t : Tracker) (s : State) : State.Within k s (s.setTracker k t) :=
  ⟨fun _ _ => rfl, fun j hj => State.setTracker_tracker_ne s k t j hj.symm, fun _ => rfl, fun _ => .inl rfl,
    fun _ _ h => h, fun _ _ h => h, fun _ => rfl, fun st h => ⟨st, h, rfl, id, fun c hc => ⟨c, hc, rfl⟩⟩⟩

theorem State.modRecord_within (k : StreamId) (i : RecordId) (f : BufferRecord → BufferRecord)
    (hg : ∀ r, (f r).generation = r.generation) (ha : ∀ r, (f r).assignment = r.assignment)
    (hh : ∀ r p, (f r).heldBy p = true → r.heldBy p = true) (ho : ∀ r p, (f r).owedTo p = true → r.owedTo p = true)
    (s : State) : State.Within k s (s.modRecord i f) := by
  have key : ∀ j, ((s.modRecord i f).record j = f (s.record j)) ∨ (s.modRecord i f).record j = s.record j := by
    intro j
    simp only [State.modRecord, State.setRecord_record]
    split
    · rename_i h
      subst h
      exact .inl rfl
    · exact .inr rfl
  refine ⟨fun _ _ => rfl, fun _ _ => rfl, fun j => ?_, fun j => .inl ?_, fun j p => ?_, fun j p => ?_, fun _ => rfl,
    fun st h => ⟨st, h, rfl, id, fun c hc => ⟨c, hc, rfl⟩⟩⟩ <;> rcases key j with h | h <;> rw [h]
  · exact hg _
  · exact ha _
  · exact hh _ p
  · exact id
  · exact ho _ p
  · exact id

theorem State.setLeases_within (k : StreamId) (t : List LeaseEntry) (s : State) :
    State.Within k s (s.setLeases t) :=
  ⟨fun _ _ => rfl, fun _ _ => rfl, fun _ => rfl, fun _ => .inl rfl, fun _ _ h => h, fun _ _ h => h, fun _ => rfl,
    fun st h => ⟨st, h, rfl, id, fun c hc => ⟨c, hc, rfl⟩⟩⟩

theorem State.setEngine_within (k : StreamId) (e : FillEngine) (s : State) : State.Within k s (s.setEngine e) :=
  ⟨fun _ _ => rfl, fun _ _ => rfl, fun _ => rfl, fun _ => .inl rfl, fun _ _ h => h, fun _ _ h => h, fun _ => rfl,
    fun st h => ⟨st, h, rfl, id, fun c hc => ⟨c, hc, rfl⟩⟩⟩

/-- Enqueueing a notice changes no expired-handle list. -/
theorem AgentPort.enqueue_expired (kind : NoticeKind) (k : StreamId) (detail : Option (BitVec 32)) (now : Time)
    (q : AgentPort) : (q.enqueue kind k detail now).expired = q.expired := by
  unfold AgentPort.enqueue AgentPort.lose
  repeat' (first | rfl | split)

theorem State.notify_within (k : StreamId) (p : Port) (kind : NoticeKind) (k' : StreamId)
    (detail : Option (BitVec 32)) (s : State) : State.Within k s (s.notify p kind k' detail) := by
  refine ⟨fun _ _ => rfl, fun _ _ => rfl, fun _ => rfl, fun _ => .inl rfl, fun _ _ h => h, fun _ _ h => h, fun j => ?_,
    fun st h => ⟨st, h, rfl, id, fun c hc => ⟨c, hc, rfl⟩⟩⟩
  simp only [State.notify, State.notifyAt, State.modPort, State.setPort_port]
  split
  · rename_i h
    subst h
    exact AgentPort.enqueue_expired _ _ _ _ _
  · rfl

theorem State.notifyEach_within (k : StreamId) (ps : List Port) (kind : NoticeKind) (k' : StreamId)
    (detail : Option (BitVec 32)) (s : State) : State.Within k s (s.notifyEach ps kind k' detail) :=
  State.Within.foldl _ (fun s p => s.notify_within k p kind k' detail) ps s

/-! ## What changes of a record leave its generation and assignment -/

theorem BufferRecord.generation_toFrame (st : FrameState) (r : BufferRecord) :
    (r.toFrame st).generation = r.generation := by
  rcases r with ⟨g, fl, u | ⟨a, st⟩ | u⟩ <;> rfl

theorem BufferRecord.assignment_toFrame (st : FrameState) (r : BufferRecord) :
    (r.toFrame st).assignment = r.assignment := by
  rcases r with ⟨g, fl, u | ⟨a, st⟩ | u⟩ <;> rfl

theorem BufferRecord.generation_toDraining (r : BufferRecord) : r.toDraining.generation = r.generation := by
  rcases r with ⟨g, fl, u | ⟨a, st⟩ | u⟩ <;> first | rfl | (cases st <;> rfl)

theorem BufferRecord.assignment_toDraining (r : BufferRecord) : r.toDraining.assignment = r.assignment := by
  rcases r with ⟨g, fl, u | ⟨a, st⟩ | u⟩ <;> first | rfl | (cases st <;> rfl)

theorem BufferRecord.generation_mapHold (f : PortSet → PortSet) (r : BufferRecord) :
    (r.mapHold f).generation = r.generation := by
  rcases r with ⟨g, fl, u | ⟨a, st⟩ | u⟩ <;> first | rfl | (cases st <;> rfl)

theorem BufferRecord.assignment_mapHold (f : PortSet → PortSet) (r : BufferRecord) :
    (r.mapHold f).assignment = r.assignment := by
  rcases r with ⟨g, fl, u | ⟨a, st⟩ | u⟩ <;> first | rfl | (cases st <;> rfl)

theorem BufferRecord.generation_mapPending (f : PortSet → PortSet) (r : BufferRecord) :
    (r.mapPending f).generation = r.generation := by
  rcases r with ⟨g, fl, u | ⟨a, st⟩ | u⟩ <;> first | rfl | (cases st <;> rfl)

theorem BufferRecord.assignment_mapPending (f : PortSet → PortSet) (r : BufferRecord) :
    (r.mapPending f).assignment = r.assignment := by
  rcases r with ⟨g, fl, u | ⟨a, st⟩ | u⟩ <;> first | rfl | (cases st <;> rfl)

theorem PortSet.has_drop (x : PortSet) (p q : Port) : (x.drop p).has q = (x.has q && decide (q ≠ p)) := by
  simp only [PortSet.drop, PortSet.has, Fin.getElem_fin, Vector.getElem_set]
  by_cases h : p = q
  · subst h
    simp
  · simp [Ne.symm h, Fin.ext_iff.not.1 h]

theorem PortSet.has_add (x : PortSet) (p q : Port) : (x.add p).has q = (x.has q || decide (q = p)) := by
  simp only [PortSet.add, PortSet.has, Fin.getElem_fin, Vector.getElem_set]
  by_cases h : p = q
  · subst h
    simp
  · simp [Ne.symm h, Fin.ext_iff.not.1 h]

/-! ## What changes of a record give no hold and make no frame owed -/

theorem BufferRecord.heldBy_toFrame_free (r : BufferRecord) (p : Port)
    (h : (r.toFrame .free).heldBy p = true) : r.heldBy p = true := by
  rcases r with ⟨g, fl, u | ⟨a, st⟩ | u⟩ <;> first | exact h | cases h

theorem BufferRecord.owedTo_toFrame_free (r : BufferRecord) (p : Port)
    (h : (r.toFrame .free).owedTo p = true) : r.owedTo p = true := by
  rcases r with ⟨g, fl, u | ⟨a, st⟩ | u⟩ <;> first | exact h | cases h

theorem BufferRecord.heldBy_toFrame_settling (r : BufferRecord) (p : Port)
    (h : (r.toFrame .settling).heldBy p = true) : r.heldBy p = true := by
  rcases r with ⟨g, fl, u | ⟨a, st⟩ | u⟩ <;> first | exact h | cases h

theorem BufferRecord.owedTo_toFrame_settling (r : BufferRecord) (p : Port)
    (h : (r.toFrame .settling).owedTo p = true) : r.owedTo p = true := by
  rcases r with ⟨g, fl, u | ⟨a, st⟩ | u⟩ <;> first | exact h | cases h

theorem BufferRecord.heldBy_toDraining (r : BufferRecord) (p : Port) : r.toDraining.heldBy p = r.heldBy p := by
  rcases r with ⟨g, fl, u | ⟨a, st⟩ | u⟩ <;> first | rfl | (cases st <;> rfl)

theorem BufferRecord.owedTo_toDraining (r : BufferRecord) (p : Port) (h : r.toDraining.owedTo p = true) :
    r.owedTo p = true := by
  rcases r with ⟨g, fl, u | ⟨a, st⟩ | u⟩ <;> first | exact h | (cases st <;> first | exact h | cases h)

theorem BufferRecord.heldBy_mapHold_drop (r : BufferRecord) (p q : Port) :
    (r.mapHold fun x => x.drop q).heldBy p = (r.heldBy p && decide (p ≠ q)) := by
  rcases r with ⟨g, fl, u | ⟨a, st⟩ | ⟨a, hold, c⟩⟩
  · rfl
  · cases st <;> first | rfl | exact PortSet.has_drop _ _ _
  · exact PortSet.has_drop _ _ _

theorem BufferRecord.owedTo_mapHold (f : PortSet → PortSet) (r : BufferRecord) (p : Port) :
    (r.mapHold f).owedTo p = r.owedTo p := by
  rcases r with ⟨g, fl, u | ⟨a, st⟩ | u⟩ <;> first | rfl | (cases st <;> rfl)

theorem BufferRecord.heldBy_mapPending (f : PortSet → PortSet) (r : BufferRecord) (p : Port) :
    (r.mapPending f).heldBy p = r.heldBy p := by
  rcases r with ⟨g, fl, u | ⟨a, st⟩ | u⟩ <;> first | rfl | (cases st <;> rfl)

theorem BufferRecord.owedTo_mapPending_drop (r : BufferRecord) (p q : Port) :
    (r.mapPending fun x => x.drop q).owedTo p = (r.owedTo p && decide (p ≠ q)) := by
  rcases r with ⟨g, fl, u | ⟨a, st⟩ | u⟩
  · rfl
  · cases st with
    | ready m pending hold =>
      cases pending with
      | none => rfl
      | some x => exact PortSet.has_drop x q p
    | _ => rfl
  · rfl

/-! ## Procedures -/

theorem State.becomeFree_within (i : RecordId) (k : StreamId) (s : State) :
    State.Within k s (s.becomeFree i k) := by
  have h := s.modRecord_within k i (BufferRecord.toFrame .free) (BufferRecord.generation_toFrame _)
    (BufferRecord.assignment_toFrame _) BufferRecord.heldBy_toFrame_free BufferRecord.owedTo_toFrame_free
  simp only [State.becomeFree]
  split
  · exact h
  · rename_i st hst
    have h' := h.trans (State.setStream_within k
      (some { st with free := st.free ++ [i], producerWaiting := false }) _ fun st' he => by
        cases he
        exact ⟨st, hst, rfl, id, fun c hc => ⟨c, hc, rfl⟩⟩)
    split
    · exact h'.trans (State.notify_within _ _ _ _ _ _)
    · exact h'

theorem State.retire_within (i : RecordId) (k : StreamId) (s : State) : State.Within k s (s.retire i k) := by
  unfold State.retire
  split
  · exact s.becomeFree_within i k
  · exact s.modRecord_within k i _ BufferRecord.generation_toDraining BufferRecord.assignment_toDraining
      (fun r p h => (r.heldBy_toDraining p).symm.trans h) BufferRecord.owedTo_toDraining

theorem State.setFill_within (k : StreamId) (i : RecordId) (x : FillRef) (s : State) :
    State.Within k s (s.modRecord i (BufferRecord.setFill x)) :=
  s.modRecord_within k i (BufferRecord.setFill x) (fun _ => rfl) (fun _ => rfl) (fun _ _ h => h)
    (fun _ _ h => h)

theorem State.endWriting_within (i : RecordId) (k : StreamId) (s : State) :
    State.Within k s (s.endWriting i k) := by
  have key : ∀ tag : BitVec 8, State.Within k s (match s.engine.cancel tag with
      | (.marked, e) => (s.setEngine e).modRecord i fun r => (r.toFrame .settling).setFill (.cancelling tag)
      | (_, e) => ((s.setEngine e).modRecord i (BufferRecord.setFill .noJob)).becomeFree i k) := by
    intro tag
    rcases s.engine.cancel tag with ⟨ans, e⟩
    have h := s.setEngine_within k e
    cases ans
    · exact (h.trans (State.setFill_within k i .noJob _)).trans (State.becomeFree_within i k _)
    · exact h.trans (State.modRecord_within k i (fun r => (r.toFrame .settling).setFill (.cancelling tag))
        (BufferRecord.generation_toFrame _) (BufferRecord.assignment_toFrame _)
        BufferRecord.heldBy_toFrame_settling BufferRecord.owedTo_toFrame_settling _)
    · exact (h.trans (State.setFill_within k i .noJob _)).trans (State.becomeFree_within i k _)
  unfold State.endWriting
  split
  · exact s.becomeFree_within i k
  · exact key _
  · exact key _

theorem State.endWriteHandle_within (i : RecordId) (p : Port) (k : StreamId) (s : State) :
    State.Within k s (s.endWriteHandle i p k) :=
  (s.setLeases_within k _).trans (State.endWriting_within i k _)

theorem State.endStreamWrite_within (k : StreamId) (s : State) : State.Within k s (s.endStreamWrite k) := by
  unfold State.endStreamWrite
  split
  · exact .refl k s
  · exact s.endWriteHandle_within _ _ _

/-- Changing the consumers' counts adds none. -/
theorem State.modConsumer_within (k : StreamId) (p : Port) (f : Consumer → Consumer)
    (hf : ∀ c, (f c).port = c.port) (s : State) :
    State.Within k s (s.modStream k (Stream.modConsumer p f)) := by
  refine s.modStream_within k (Stream.modConsumer p f) fun st => ⟨rfl, id, fun c' hc' => ?_⟩
  simp only [Stream.modConsumer, List.mem_map] at hc'
  obtain ⟨c, hc, rfl⟩ := hc'
  refine ⟨c, hc, ?_⟩
  split
  · exact (hf c).symm
  · rfl

theorem State.endHold_within (i : RecordId) (p : Port) (k : StreamId) (s : State) :
    State.Within k s (s.endHold i p k) := by
  have h := (s.modRecord_within k i (BufferRecord.mapHold fun x => x.drop p) (BufferRecord.generation_mapHold _)
    (BufferRecord.assignment_mapHold _) (fun r q h => by rw [BufferRecord.heldBy_mapHold_drop] at h; simp_all)
    (fun r q h => (r.owedTo_mapHold _ q).symm.trans h)).trans
    (State.modConsumer_within k p (fun c => { c with readHolds := c.readHolds - 1 }) (fun _ => rfl) _)
  simp only [State.endHold]
  split
  · exact h.trans (State.becomeFree_within i k _)
  · exact h

theorem State.releaseHold_within (i : RecordId) (p : Port) (k : StreamId) (s : State) :
    State.Within k s (s.releaseHold i p k) :=
  (s.setLeases_within k _).trans (State.endHold_within i p k _)

theorem State.completeClose_within (k : StreamId) (st : Stream) (o : CloseOrigin) (s : State) :
    State.Within k s (s.completeClose k st o) := by
  have h : State.Within k s { s with
      records := s.records.map fun (r : BufferRecord) => if r.names k then r.unassign else r } := by
    refine ⟨fun _ _ => rfl, fun _ _ => rfl, fun i => ?_, fun i => ?_, fun i p => ?_, fun i p => ?_, fun _ => rfl,
      fun st h => ⟨st, h, rfl, id, fun c hc => ⟨c, hc, rfl⟩⟩⟩ <;>
      simp only [State.record, Fin.getElem_fin, Vector.getElem_map] <;> split
    · rfl
    · rfl
    · exact .inr rfl
    · exact .inl rfl
    · exact fun h => Bool.noConfusion h
    · exact id
    · exact fun h => Bool.noConfusion h
    · exact id
  have h' := h.trans (State.setStream_within k none _ fun st' he => by cases he)
  simp only [State.completeClose]
  split
  · exact h'.trans (State.notify_within _ _ _ _ _ _)
  · exact h'

theorem State.completionCheck_within (k : StreamId) (s : State) : State.Within k s (s.completionCheck k) := by
  unfold State.completionCheck
  split
  · exact .refl k s
  · split
    · split
      · exact s.completeClose_within _ _ _
      · exact .refl k s
    · exact .refl k s

theorem State.cancelFallbackFill_within (k : StreamId) (s : State) :
    State.Within k s (s.cancelFallbackFill k) := by
  have key : ∀ (i : RecordId) (tag : BitVec 8), State.Within k s (match s.engine.cancel tag with
      | (.marked, e) => (s.setEngine e).modRecord i (BufferRecord.setFill (.cancelling tag))
      | (_, e) => (s.setEngine e).modRecord i (BufferRecord.setFill .noJob)) := by
    intro i tag
    rcases s.engine.cancel tag with ⟨ans, e⟩
    have h := s.setEngine_within k e
    cases ans
    · exact h.trans (State.setFill_within k i .noJob _)
    · exact h.trans (State.setFill_within k i (.cancelling tag) _)
    · exact h.trans (State.setFill_within k i .noJob _)
  unfold State.cancelFallbackFill
  split
  · exact .refl k s
  · split
    · exact .refl k s
    · exact key _ _
    · exact key _ _

theorem State.enterClosing_within (k : StreamId) (o : CloseOrigin) (s : State) :
    State.Within k s (s.enterClosing k o) := by
  unfold State.enterClosing
  split
  · exact .refl k s
  · rename_i st hst
    have h0 := s.setStream_within k (some { st with producerWaiting := false, consumers := [], ready := [] })
      fun st' he => by
        cases he
        exact ⟨st, hst, rfl, id, by simp⟩
    exact ((((((h0.trans (State.notifyEach_within _ _ _ _ _ _)).trans
      (State.Within.foldl _ (fun s i => s.retire_within i k) _ _)).trans
      (State.endStreamWrite_within _ _)).trans (State.cancelFallbackFill_within _ _)).trans
      (State.setTracker_within k _ _)).trans
      (State.modStream_within k (fun st => { st with phase := .closing o })
        (fun st => ⟨rfl, id, fun c hc => ⟨c, hc, rfl⟩⟩) _)).trans (State.completionCheck_within _ _)

theorem State.releaseHolds_within (p : Port) (k : StreamId) (s : State) :
    State.Within k s (s.releaseHolds p k) :=
  State.Within.foldl _ (fun s i => s.releaseHold_within i p k) _ s

theorem State.dropOwed_within (p : Port) (k : StreamId) (i : RecordId) (s : State) :
    State.Within k s (s.dropOwed p k i) := by
  have h := s.modRecord_within k i (BufferRecord.mapPending fun x => x.drop p)
    (BufferRecord.generation_mapPending _) (BufferRecord.assignment_mapPending _)
    (fun r q h => (r.heldBy_mapPending _ q).symm.trans h)
    (fun r q h => by rw [BufferRecord.owedTo_mapPending_drop] at h; simp_all)
  unfold State.dropOwed
  split
  · exact .refl k s
  · simp only
    split
    · exact (h.trans (State.modStream_within k (fun st => { st with ready := st.ready.filter fun j => j ≠ i })
        (fun st => ⟨rfl, id, fun c hc => ⟨c, hc, rfl⟩⟩) _)).trans (State.retire_within _ _ _)
    · exact h

theorem State.dropAllOwed_within (p : Port) (k : StreamId) (s : State) :
    State.Within k s (s.dropAllOwed p k) := by
  unfold State.dropAllOwed
  split
  · exact .refl k s
  · split
    · exact State.Within.foldl _ (fun s i => s.dropOwed_within p k i) _ s
    · exact .refl k s

theorem State.dropEntry_within (p : Port) (k : StreamId) (s : State) : State.Within k s (s.dropEntry p k) := by
  unfold State.dropEntry
  split
  · exact .refl k s
  · rename_i st hst
    have h := s.setStream_within k (some { st with consumers := st.consumers.filter fun c => c.port ≠ p })
      fun st' he => by
        cases he
        exact ⟨st, hst, rfl, id, fun c hc => ⟨c, (List.mem_filter.1 hc).1, rfl⟩⟩
    simp only
    split
    · exact h.trans (State.notify_within _ _ _ _ _ _)
    · exact h

theorem State.orphanCheck_within (k : StreamId) (s : State) : State.Within k s (s.orphanCheck k) := by
  unfold State.orphanCheck
  split
  · exact .refl k s
  · split
    · exact s.enterClosing_within _ _
    · exact .refl k s

theorem State.depart_within (p : Port) (k : StreamId) (s : State) : State.Within k s (s.depart p k) :=
  (((s.releaseHolds_within p k).trans (State.dropAllOwed_within _ _ _)).trans
    (State.dropEntry_within _ _ _)).trans (State.orphanCheck_within _ _)

theorem State.departIfMember_within (p : Port) (k : StreamId) (s : State) :
    State.Within k s (s.departIfMember p k) := by
  unfold State.departIfMember
  split
  · exact .refl k s
  · split
    · exact s.depart_within p k
    · exact .refl k s

theorem State.releaseInClosing_within (p : Port) (k : StreamId) (s : State) :
    State.Within k s (s.releaseInClosing p k) := by
  unfold State.releaseInClosing
  split
  · exact .refl k s
  · split
    · split
      · exact .refl k s
      · exact (s.releaseHolds_within p k).trans (State.completionCheck_within _ _)
    · exact .refl k s

theorem State.orphan_within (k : StreamId) (s : State) : State.Within k s (s.orphan k) := by
  unfold State.orphan
  split
  · exact .refl k s
  · rename_i st hst
    have h := s.setStream_within k (some { st with phase := .orphaned, producerWaiting := false })
      fun st' he => by
        cases he
        exact ⟨st, hst, rfl, id, fun c hc => ⟨c, hc, rfl⟩⟩
    exact (h.trans (State.setTracker_within k _ _)).trans (State.notifyEach_within _ _ _ _ _ _)

/-- Taking the producer's presence away adds no member (R38). -/
theorem State.absentProducer_within (k : StreamId) (s : State) :
    State.Within k s (s.modStream k fun st => { st with producerPresent := false }) :=
  s.modStream_within k (fun st => { st with producerPresent := false })
    fun _ => ⟨rfl, fun h => Bool.noConfusion h, fun c hc => ⟨c, hc, rfl⟩⟩

theorem State.dropProducer_within (p : Port) (k : StreamId) (s : State) :
    State.Within k s (s.dropProducer p k) := by
  have h := (s.endStreamWrite_within k).trans (State.absentProducer_within k _)
  unfold State.dropProducer
  split
  · exact .refl k s
  · split
    · simp only
      split
      · exact h.trans (State.enterClosing_within _ _ _)
      · split
        · exact h.trans (State.enterClosing_within _ _ _)
        · exact h.trans (State.orphan_within _ _)
      · exact h
    · exact .refl k s

/-! ## All streams at once -/

/-- What a fold over the streams leaves alone, for each of them. -/
theorem State.foldl_streams_within (f : State → StreamId → State)
    (hf : ∀ (s : State) k, State.Within k s (f s k)) (ks : List StreamId) (s : State) :
    (∀ i, ((ks.foldl f s).record i).generation = (s.record i).generation) ∧
    (∀ p, ((ks.foldl f s).port p).expired = (s.port p).expired) ∧
    (∀ k, k ∉ ks → (ks.foldl f s).stream k = s.stream k) ∧
    ∀ k st', (ks.foldl f s).stream k = some st' → ∃ st, s.stream k = some st ∧ st'.producer = st.producer ∧
      (st'.producerPresent = true → st.producerPresent = true) ∧
      ∀ c' ∈ st'.consumers, ∃ c ∈ st.consumers, c.port = c'.port := by
  induction ks generalizing s with
  | nil => exact ⟨fun _ => rfl, fun _ => rfl, fun _ _ => rfl, fun k st h => ⟨st, h, rfl, id, fun c hc => ⟨c, hc, rfl⟩⟩⟩
  | cons k ks ih =>
    have h := hf s k
    obtain ⟨h1, h2, h3, h4⟩ := ih (f s k)
    refine ⟨fun i => (h1 i).trans (h.generation i), fun p => (h2 p).trans (h.expired p), fun j hj => ?_, ?_⟩
    · simp only [List.mem_cons, not_or] at hj
      exact (h3 j hj.2).trans (h.streams j hj.1)
    · intro j st'' hs''
      obtain ⟨st', hs', hp', hx', hc'⟩ := h4 j st'' hs''
      by_cases hj : j = k
      · subst hj
        obtain ⟨st, hs, hp, hx, hc⟩ := h.members st' hs'
        refine ⟨st, hs, hp'.trans hp, hx ∘ hx', fun c'' hm => ?_⟩
        obtain ⟨c', hm', he'⟩ := hc' c'' hm
        obtain ⟨c, hm, he⟩ := hc c' hm'
        exact ⟨c, hm, he.trans he'⟩
      · exact ⟨st', (h.streams j hj).symm.trans hs', hp', hx', hc'⟩

end Sys2Proof.Machine
end

