-- ==== Sys2Proof/Laws/Ports.lean ====
section
/-! SUPPORT. The select line and the code byte of a port's transactions: what each edge can do (R165, R168, R189). -/

namespace Sys2Proof.Machine

/-- The code byte of a ready port begins a transaction (R168). -/
theorem State.mayBegin_of_ready {s : State} {p : Port} (h : s.PortReady p) : s.mayBegin p = true := by
  simp [State.mayBegin, h.1, h.2.1, h.2.2]

/-- A line that did not fall after the release begins none (R165). -/
theorem State.mayBegin_of_not_low {s : State} {p : Port} (h : (s.port p).select ≠ .low) : s.mayBegin p = false := by
  simp [State.mayBegin, h]

/-- Writing a port back as it stands changes nothing. -/
theorem State.setPort_same (s : State) (p : Port) : s.setPort p (s.port p) = s := by
  simp [State.setPort, State.port]

/-- A falling edge of a high line: low after reset release, held before it (R165). -/
theorem State.selectFalls_of_high {s : State} {p : Port} (h : (s.port p).select = .high) :
    s.selectFalls p = s.setPort p { s.port p with
      select := if s.resetAsserted then .held else .low, sdo := [] } := by
  simp [State.selectFalls, State.modPort, AgentPort.fall, h]

/-- A line that is not high does not fall. -/
theorem State.selectFalls_of_not_high {s : State} {p : Port} (h : (s.port p).select ≠ .high) :
    s.selectFalls p = s := by
  simp [State.selectFalls, State.modPort, AgentPort.fall, h, State.setPort_same]

/-- A rising edge with no transaction under way only raises the line (R165, R168). -/
theorem State.selectRises_of_idle {s : State} {p : Port} (h : (s.port p).transaction = none) :
    s.selectRises p = s.setPort p { s.port p with select := .high } := by
  simp [State.selectRises, State.modPort, h]

/-- Everything an edge of select without a transaction can do: change the port's line and SDO. -/
theorem State.selectFalls_cases (s : State) (p : Port) : s.selectFalls p = s ∨
    ∃ l, s.selectFalls p = s.setPort p { s.port p with select := l, sdo := [] } := by
  by_cases h : (s.port p).select = .high
  · exact .inr ⟨_, State.selectFalls_of_high h⟩
  · exact .inl (State.selectFalls_of_not_high h)

/-- Everything a rising edge without a transaction can do: raise the port's line. -/
theorem State.selectRises_cases (s : State) (p : Port) : s.selectRises p = s ∨
    s.selectRises p = s.setPort p { s.port p with select := .high } := by
  unfold State.selectRises
  split
  · exact .inr rfl
  · exact .inl rfl

/-- A byte names no transaction exactly when it is none of the five codes (R168, R189). -/
theorem transactionOf_eq_none_iff (code : Byte) :
    transactionOf code = none ↔ code ∉ ([0x5A, 0xC3, 0x3C, 0xA5, 0x96] : List Byte) := by
  simp only [transactionOf, allTransactions, List.find?_eq_none, List.mem_cons, List.not_mem_nil, or_false,
    forall_eq_or_imp, forall_eq, decide_eq_true_eq, not_or]
  simp only [TransactionKind.code, eq_comm (b := code)]

/-- The transaction a code byte names has that code (R189). -/
theorem transactionOf_code (x : TransactionKind) : transactionOf x.code = some x := by cases x <;> decide

end Sys2Proof.Machine
end

