-- ==== Sys2Proof/WellFormed.lean ====
section
/-! DEFINITION. Which commands are well formed. The operand types already bound every port, stream and
tag; one check is left. -/

namespace Sys2Proof

/-- An UNKNOWN_TRANSACTION carries a code byte that is none of the five codes (R168).
(DESIGN CHOICE, unsafe: log entry 18.) -/
def Instr.wellFormed : Instr → Bool
  | .unknownTransaction _ (some code) _ => (transactionOf code).isNone
  | _ => true

end Sys2Proof
end

