-- ==== Sys2Proof/Tests/Slice0.lean ====
section
/-! SUPPORT. Small tests: check values and worked sequences of the spec, one step each, and, for every
statement with hypotheses, a concrete state and operands that meet them. -/

namespace Sys2Proof.Tests

open Sys2Proof.Machine

set_option Elab.async false

/-! ## Small states -/

/-- A port with session 5 in force, every notice kind selected and its select line low. -/
def agent : AgentPort :=
  { AgentPort.reset with
    state := .attached, inForce := true, session := 5, mask := 0x000FFFFE, select := .low }

/-- A device one second after its release, the core free and the engine in STANDBY. -/
def device : State :=
  { State.reset with
    resetAsserted := false, timebase := 1000000, engine := { FillEngine.reset with state := .standby }
    ports := Vector.replicate 6 agent }

/-- The device with one port changed. -/
def withPort (p : Port) (q : AgentPort) : State := device.setPort p q

/-- The core executing an item granted at 999,990. -/
def busy (i : Item) (s : State) : State := s.setCore (some { item := i, takenAt := 999990 })

/-- A request frame of session 5. -/
def frame (code : Byte) (payload : List Byte) : RequestFrame :=
  { code := code, session := 5, payload := payload }

/-- The core executing a request of a port. -/
def asking (p : Port) (f : RequestFrame) (s : State) : State :=
  busy (.request p) (s.modPort p fun q => { q with request := .taken (.request f) })

/-- The state after a command. -/
def ran (c : Instr) (s : State) : State :=
  match exec c s with
  | .next u => u
  | _ => s

/-- The result and payload of a port's response. -/
def answered (s : State) (p : Port) : Option (Result × List Byte) :=
  (s.port p).response.map fun r => (r.result, r.payload)

/-- The region of a record in these tests: 64 KiB at 64 KiB times its index, for stream S15. -/
def region (i : Nat) : Assignment := { stream := 15, base := BitVec.ofNat 40 (i * 65536), length := 65536 }

/-- S15, OPEN, produced by P0, with write lease 10, read lease 0 and the highest next sequence. -/
def stream (policy : Policy) (ready free : List RecordId) (consumers : List Consumer) : Stream :=
  { phase := .opened, producer := 0, producerPresent := true, policy := policy, overflow := .dropOldest
    frameCount := 3, fallbackPattern := none, consumerLimit := 2, writeLease := 10, readLease := 0
    cadence := CadenceParams.lowest, nextSequence := 4294967295, ready := ready, free := free
    consumers := consumers, producerWaiting := false, published := 3, dropped := 0 }

/-- A consumer entry with the highest skipped count. -/
def member (p : Port) : Consumer :=
  { port := p, holdLimit := 2, repeatAllowed := false, lastDelivered := none, skipped := 65535, readHolds := 0 }

/-- The device with S15 and its records B61 to B63, each at generation 255. -/
def live (st : Stream) (a b c : RecordUse) : State :=
  let put (i : RecordId) (use : RecordUse) (s : State) : State :=
    s.setRecord i { generation := 255, fill := .noJob, use := use }
  put 63 c (put 62 b (put 61 a (device.setStream 15 (some st))))

/-- A frame record of S15. -/
def fr (i : Nat) (st : FrameState) : RecordUse := .frame (region i) st

/-- A published frame. -/
def stamp : FrameStamp := { sequence := 9, publishTime := 999000 }

/-- A set of ports. -/
def ports (l : List Port) : PortSet := PortSet.ofList l

/-- S15 with one frame READY in B62 for P4 and P5. -/
def queued : State :=
  live (stream .queue [62] [61] [member 4, member 5]) (fr 61 .free)
    (fr 62 (.ready stamp (some (ports [4, 5])) PortSet.empty)) (fr 63 .settling)

/-- S15 with B61 WRITING for P0. -/
def writing (policy : Policy) (consumers : List Consumer) : State :=
  live (stream policy [] [63] consumers) (fr 61 (.writing 0)) (fr 62 .settling) (fr 63 .free)

/-- S15, LATEST, with the fallback B61 and the frame B62 READY. -/
def latest (c : FallbackCondition) : State :=
  live (stream .latest [62] [63] [member 4, member 5]) (.fallback (region 61) PortSet.empty c)
    (fr 62 (.ready stamp none PortSet.empty)) (fr 63 .free)

/-- A fill job of a record. -/
def job (tag : BitVec 8) (i : RecordId) : FillJob :=
  { tag := tag, index := i, kind := .frameFill, requester := 0, pattern := 0x10801080, start := 0x400000
    stop := 0x400300, next := 0x400200, cancel := false }

/-- The burst in flight for `job`. -/
def burst : Burst := { address := 0x400200, tag := 9, issuedAt := 999940, accepted := false }

/-- An engine with one job, its last burst in flight. -/
def filling : FillEngine := { state := .running burst, jobs := [job 5 61], tagCounter := 6, burstCounter := 10 }

/-- A report of `job`. -/
def report (outcome : FillOutcome) : FillReport :=
  { tag := 5, index := 61, kind := .frameFill, requester := 0, outcome := outcome }

/-- A lease entry of P4 that is due. -/
def due : LeaseEntry :=
  { handle := 0xBEFF, port := 4, index := 62, kind := .read, deadline := 1000000, marked := false }

/-! ## Well-formed commands and words -/

/-- A code byte of the five codes makes an UNKNOWN_TRANSACTION ill formed, and exec leaves the state alone. -/
theorem test_ill_formed_unknown_transaction :
    (Instr.unknownTransaction 0 (some 0x5A) (.rise 3)).wellFormed = false ∧
      ran (.unknownTransaction 0 (some 0x5A) (.rise 3)) device = device := ⟨by decide, rfl⟩

theorem test_well_formed_unknown_transaction :
    (Instr.unknownTransaction 0 (some 0x5B) (.rise 3)).wellFormed = true ∧
      (Instr.unknownTransaction 0 none (.rise 0)).wellFormed = true := by decide

/-- No row of the opcode table gives bits, so no word spells a command. -/
theorem test_no_word_spells_a_command : decodeTableWord 8 0x5A = none := by decide

/-- Check value of R190: the CRC of the nine bytes "123456789". -/
theorem test_crc_check_value :
    crc16 [0x31, 0x32, 0x33, 0x34, 0x35, 0x36, 0x37, 0x38, 0x39] = 0x29B1 := by decide +kernel

/-- R190: the bytes behind the code of a QUERY_DEVICE SUBMIT with session 1. -/
theorem test_crc_query_device :
    crc16 [0x12] = 0xD383 ∧ crc16 [0x12, 0x01] = 0x683F ∧
      withCrc (frameBody 0x12 0x01 []) = [0x12, 0x01, 0x00, 0xD2, 0xAE] := by decide

/-- R192: the handles W/5/7 and R/4/7; bit 14 names nothing. -/
theorem test_handles :
    formHandle .write 5 7 = 0x0507 ∧ formHandle .read 4 7 = 0x8407 ∧
      parseHandle 0x8407 = some (.read, 4, 7) ∧ parseHandle 0x4407 = none := by decide

/-! ## Transactions -/

/-- R190: a wrong CRC byte gives BAD_FRAME with echo 0x12 and FRAME_ERROR. -/
theorem test_submit_wrong_crc :
    let u := ran (.submit 5 (.rise [0x12, 0x01, 0x00, 0xD2, 0xAF]))
      (withPort 5 { agent with transaction := some (.submit true) })
    (u.port 5).response = some { result := .badFrame, code := 0x12, payload := [] } ∧
      (u.port 5).frameError = true ∧ (u.port 5).request = .empty := by decide +kernel

/-- R150, R169: a good frame is HELD and taken by the free core at once. -/
theorem test_submit_granted :
    let u := ran (.submit 5 (.rise [0x12, 0x01, 0x00, 0xD2, 0xAE]))
      (withPort 5 { agent with transaction := some (.submit true) })
    (u.port 5).request = .taken (.request { code := 0x12, session := 1, payload := [] }) ∧ u.pointer = 0 := by
  decide +kernel

/-- R171: one byte short leaves the slot FULL. -/
theorem test_collect_short :
    let q := { agent with response := some { result := .ok, code := 0x12, payload := [7] } }
    let u := ran (.collect 5 (.rise 5)) (ran (.collect 5 .code) (withPort 5 q))
    (u.port 5).response.isSome = true ∧ (u.port 5).sdo.take 5 = [0x00, 0x00, 0x12, 0x01, 0x07] := by decide

/-- R171: the whole copy empties the slot; bytes beyond it read as zero. -/
theorem test_collect_whole :
    let q := { agent with response := some { result := .ok, code := 0x12, payload := [] } }
    let u := ran (.collect 5 (.rise 6)) (ran (.collect 5 .code) (withPort 5 q))
    (u.port 5).response = none ∧ (u.port 5).sdo.length = 7 ∧ (u.port 5).sdo.getLast? = some 0 := by decide

/-- R172, R193: the status word of P5, and the latches it clears. -/
theorem test_status :
    let u := ran (.status 5 (.rise 4))
      (ran (.status 5 .code) (withPort 5 { agent with rejected := true, frameError := true }))
    (u.port 5).sdo = [0x00, 0xE2, 5, 0, 5] ∧ (u.port 5).rejected = false ∧ (u.port 5).frameError = false := by decide

/-- R187, R193: the bytes of a FRAME_LATE record of S2, popped whole. -/
theorem test_notice_pops :
    let n : Notice := { kind := .frameLate, stream := some 2, count := 1, time := 0x01020304, detail := some 3 }
    let u := ran (.notice 5 (.rise 14)) (ran (.notice 5 .code) (withPort 5 { agent with notices := [n] }))
    (u.port 5).notices = [] ∧
      (u.port 5).sdo.take 13 = [0x00, 0x11, 2, 1, 1, 1, 2, 3, 4, 0, 0, 0, 3] := by decide

/-- R188: an occurrence tallied during the transfer leaves the head with the tally as count. -/
theorem test_notice_keeps_tally :
    let n : Notice := { kind := .overflow, stream := none, count := 9, time := 1, detail := some 9 }
    let q := { agent with notices := [n], transaction := some (.notice [1] true 2 2) }
    ((ran (.notice 5 (.rise 1)) (withPort 5 q)).port 5).notices = [{ n with count := 2, detail := some 2 }] := by
  decide

/-- R177, R178: a TAKEN request stays, the response is discarded and the port is RESETTING. -/
theorem test_port_reset :
    let u := ran (.portReset 2 (.rise 0)) (asking 2 (frame 0x0E [0x82, 1]) (withPort 2 { agent with rejected := true }))
    (u.port 2).state = .resetting ∧ (u.port 2).request = .taken (.request (frame 0x0E [0x82, 1])) ∧
      (u.port 2).rejected = false := by decide

/-- R168: an unknown code is refused with REJECTED. -/
theorem test_unknown_transaction :
    let u := ran (.unknownTransaction 3 (some 0x00) (.rise 2)) device
    (u.port 3).rejected = true ∧ (u.port 3).sdo = [0, 0, 0] := by decide

/-- R165: a select line that falls before reset release is held: its code byte begins nothing, and after a rise and
a fall it does. -/
theorem test_select_held_across_reset_release :
    let s := ran .resetRelease (ran (.status 5 .fall) (ran .deviceReset (withPort 5 { agent with select := .high })))
    let u := ran (.status 5 .code) (ran (.status 5 .fall) (ran (.status 5 (.rise 4)) s))
    (ran (.status 5 .code) s).port 5 = s.port 5 ∧ (s.port 5).select = .held ∧ (u.port 5).transaction.isSome = true := by
  decide +kernel

/-- R189: the five code bytes, and a byte that is none of them. -/
theorem test_transaction_codes :
    transactionCommands 5 0x5A [1, 2] = [.submit 5 .fall, .submit 5 .code, .submit 5 (.rise [1, 2])] ∧
      [0xC3, 0x3C, 0xA5, 0x96, 0x5B].map transactionOf =
        [some .collect, some .status, some .notice, some .portReset, none] := by decide

/-! ## Sessions -/

/-- R174: 1 follows 255; the response carries the number. -/
theorem test_attach_wraps :
    let u := ran (.attach 1) (asking 1 (frame 0x01 [0, 0x0F, 0xFF, 0xFE, 3])
      (withPort 1 { AgentPort.reset with state := .detached, session := 255 }))
    answered u 1 = some (.ok, [1]) ∧ (u.port 1).state = .attached ∧ (u.port 1).attn = true := by decide

/-- R175, R191: a mask bit above 19 is refused. -/
theorem test_mask_bad :
    answered (ran (.setNoticeMask 1) (asking 1 (frame 0x03 [0, 0x10, 0, 0, 0]) device)) 1 =
      some (.badParameter, []) := by decide

/-- R176: DETACH of a consumer empties its entry; the producer is told with the port as detail. -/
theorem test_detach :
    let u := ran (.detach 5) (asking 5 (frame 0x02 []) queued)
    answered u 5 = some (.ok, [5]) ∧ (u.port 5).state = .detached ∧
      (u.stream 15).map (fun st => st.consumers) = some [member 4] ∧
      (u.port 0).notices.map (fun n => (n.kind, n.detail)) = [(.consumerLeft, some 5)] := by decide +kernel

/-- R179: a forced detach places no response and leaves the port DETACHED with its session number. -/
theorem test_forced_detach :
    let u := ran (.forcedDetach 2) (busy (.forcedDetach 2)
      (withPort 2 { agent with state := .resetting, request := .taken .forcedDetach }))
    (u.port 2).state = .detached ∧ (u.port 2).session = 5 ∧ (u.port 2).inForce = false ∧
      (u.port 2).request = .empty ∧ (u.port 2).response = none := by decide +kernel

/-! ## Streams -/

/-- An OPEN_STREAM payload of a QUEUE stream over the three descriptors of the worked example 1.10. -/
def open110 (last : Byte) : List Byte :=
  [0, 0, 3, 0, 2, 0, 0, 0, 0, 0, 1, 2, 1, 1, 0, 0, 0, 0,
    0, 0, 0x03, 0x80, 0x00, 0x00, 0x00, 0x80, 0x00, 0x00,
    0, 0, 0x03, 0xC0, 0x00, 0x00, 0x00, 0x40, 0x00, 0x00,
    0, 0, 0x03, 0x00, last, 0x80, 0x00, 0x00, 0x10, 0x00]

/-- A QUEUE OPEN_STREAM with n = 2 and no fallback. -/
def openQueue : List Byte :=
  [0, 0, 2, 0, 2, 0, 0, 0, 0, 0, 1, 2, 1, 1, 0, 0, 0, 0,
    0, 0, 0, 0, 0, 0, 0, 0, 0x10, 0,  0, 0, 0, 0, 0x10, 0, 0, 0, 0x10, 0]

/-- A LATEST OPEN_STREAM with n = 2 and a fallback at the top of the address space. -/
def openLatest : List Byte :=
  [1, 0, 2, 1, 4, 0xFF, 0xFF, 0xFF, 0xFF, 1, 16, 15, 15, 15, 1, 2, 3, 4,
    0, 0, 0, 0, 0, 0, 0, 0, 0x10, 0,  0, 0, 0, 0, 0x10, 0, 0, 0, 0x10, 0,
    0, 0xFF, 0xFF, 0xFF, 0xF0, 0, 0, 0, 0x10, 0]

/-- Worked example 1.10: a base that is no multiple of 256 is found before any overlap. -/
theorem test_open_bad_descriptor :
    answered (ran (.openStream 1) (asking 1 (frame 0x04 (open110 0)) device)) 1 =
      some (.badDescriptor, [2]) := by decide

/-- Worked example 1.10: descriptor 1 overlaps descriptor 0. -/
theorem test_open_conflict :
    let f := frame 0x04 ((open110 1).set 43 0)
    answered (ran (.openStream 1) (asking 1 f device)) 1 = some (.regionConflict, [1]) := by decide

/-- R29: a stream without a fallback is OPEN at once, over the lowest UNASSIGNED records. -/
theorem test_open_queue :
    let u := ran (.openStream 1) (asking 1 (frame 0x04 openQueue) device)
    answered u 1 = some (.ok, [0, 2, 2, 0, 1]) ∧ (u.record 1).base = 0x1000 := by decide

/-- Worked sequence 2.10: with P2 holding B0 and P3 none, a close leaves the stream CLOSING. -/
theorem test_close_holds :
    let s := live { stream .queue [62] [61] [member 4] with writeLease := 0 } (fr 61 .free)
      (fr 62 (.ready stamp (some (ports [5])) (ports [4]))) (fr 63 (.writing 0))
    let u := ran (.closeStream 0) (asking 0 (frame 0x05 [15]) s)
    answered u 0 = some (.ok, [4]) ∧ (u.record 62).use = fr 62 (.draining stamp (ports [4])) ∧
      (u.record 63).use = fr 63 .free := by decide

/-- R41, R43: JOIN with start PENDING is owed the ready frame; the producer gets CONSUMER_JOINED. -/
theorem test_join_pending :
    let s := live (stream .queue [62] [61] [member 4]) (fr 61 .free)
      (fr 62 (.ready stamp (some (ports [4])) PortSet.empty)) (fr 63 .settling)
    let u := ran (.join 5) (asking 5 (frame 0x06 [15, 1, 4, 0]) s)
    answered u 5 = some (.ok, [0, 4, 1]) ∧ (u.record 62).owedTo 5 = true ∧
      (u.port 0).notices.map (fun n => (n.kind, n.detail)) = [(.consumerJoined, some 5)] := by decide

/-- R45, R87: LEAVE releases the hold and frees the drained buffer. -/
theorem test_leave :
    let s := live (stream .queue [] [61] [{ member 5 with readHolds := 1 }]) (fr 61 .free)
      (fr 62 (.draining stamp (ports [5]))) (fr 63 .settling)
    let u := ran (.leave 5) (asking 5 (frame 0x07 [15]) s)
    answered u 5 = some (.ok, [1]) ∧ (u.record 62).use = fr 62 .free ∧
      (u.stream 15).map (fun st => st.free) = some [61, 62] := by decide

/-! ## Producing -/

/-- Worked sequence 3.7, event 7: the oldest unheld ready frame is dropped and its owed consumers told. -/
theorem test_acquire_write_drops :
    let s := live { stream .queue [61, 62] [] [member 4, { member 5 with skipped := 0 }] with writeLease := 0 }
      (fr 61 (.ready stamp (some (ports [5])) (ports [4])))
      (fr 62 (.ready { stamp with sequence := 3 } (some (ports [4, 5])) PortSet.empty)) (fr 63 .settling)
    let u := ran (.acquireWrite 0) (asking 0 (frame 0x08 [15]) s)
    answered u 0 = some (.ok, [0x3E, 0, 0, 0, 0x3E, 0, 0, 0, 1, 0, 0, 2, 0, 0, 0, 0, 0, 0, 0, 3]) ∧
      (u.stream 15).map (fun st => (st.ready, st.consumers.map Consumer.skipped)) = some ([61], [65535, 1]) ∧
      (u.port 5).notices.map (fun n => (n.kind, n.detail)) = [(.frameDropped, some 3)] := by decide

/-- R48, R98: a lease of 10 units ends 1,000 µs after the grant. -/
theorem test_acquire_write_lease :
    (ran (.acquireWrite 0) (asking 0 (frame 0x08 [15]) queued)).leases =
      [{ handle := 0x3D00, port := 0, index := 61, kind := .write, deadline := 1001000, marked := false }] := by
  decide

/-- R24, R56: sequence 1 follows 4,294,967,295; the publish time is that of the grant. -/
theorem test_publish :
    let u := ran (.publish 0) (asking 0 (frame 0x09 [0x3D, 0xFF]) (writing .queue [member 4, member 5]))
    answered u 0 = some (.ok, [0xFF, 0xFF, 0xFF, 0xFF, 0, 0x0F, 0x42, 0x36, 2, 0]) ∧
      (u.stream 15).map (fun st => (st.ready, st.nextSequence)) = some ([61], 1) := by decide

/-- R64: DISCARD of a buffer without a job makes it FREE at the tail. -/
theorem test_discard :
    let u := ran (.discard 0) (asking 0 (frame 0x0A [0x3D, 0xFF]) (writing .queue []))
    answered u 0 = some (.ok, [1]) ∧ (u.stream 15).map (fun st => st.free) = some [63, 61] := by decide

/-- Worked sequence 7.11, event 6: a DISCARD during a burst is answered MARKED and leaves SETTLING. -/
theorem test_discard_marked :
    let s := ((writing .queue []).modRecord 61 (BufferRecord.setFill (.named 5))).setEngine filling
    let u := ran (.discard 0) (asking 0 (frame 0x0A [0x3D, 0xFF]) s)
    answered u 0 = some (.ok, [5]) ∧ (u.record 61).fill = .cancelling 5 ∧
      u.engine.jobs.map FillJob.cancel = [true] := by decide

/-- Worked sequence 7.11, event 1: FILL with offset 0 and length 3 asks for three bursts. -/
theorem test_fill :
    let s := (writing .queue []).setEngine { filling with state := .standby, jobs := [], tagCounter := 5 }
    let u := ran (.fill 0)
      (asking 0 (frame 0x0B [0x3D, 0xFF, 0x10, 0x80, 0x10, 0x80, 0, 0, 0, 0, 0, 3]) s)
    answered u 0 = some (.ok, [5]) ∧ u.engine.jobs.map (fun j => (j.start, j.stop)) = [(0x3D0000, 0x3D0300)] := by
  decide

/-- R144: the fallback is FILLING at once. -/
theorem test_refill :
    let u := ran (.refillFallback 0) (asking 0 (frame 0x0C [15, 0, 0x10, 0x80, 0x10]) (latest .valid))
    answered u 0 = some (.ok, [0]) ∧ (u.record 61).condition = some .filling := by decide

/-! ## Consuming -/

/-- R72, R79: the frame moves from owed to held; the response carries the skipped count before it is cleared. -/
theorem test_acquire_read_queue :
    let u := ran (.acquireRead 5) (asking 5 (frame 0x0D [15]) queued)
    answered u 5 = some (.ok, [0xBE, 0xFF, 0, 0, 0x3E, 0, 0, 0, 1, 0, 0, 0, 0, 0, 9, 0, 0x0F, 0x3E, 0x58, 0,
        0xFF, 0xFF, 2, 0, 0, 0, 0]) ∧
      (u.record 62).use = fr 62 (.ready stamp (some (ports [4])) (ports [5])) := by decide

/-- R74: a STALLED tracker gives the VALID fallback, flagged FALLBACK and not STALE (R78). -/
theorem test_acquire_read_fallback :
    let s := (latest .valid).modTracker 15 fun t => { t with state := .stalled }
    let u := ran (.acquireRead 5) (asking 5 (frame 0x0D [15]) s)
    (answered u 5).map (fun r => (r.1, r.2.drop 19)) = some (.ok, [2, 0xFF, 0xFF, 0, 0, 0, 0, 0]) ∧
      (u.record 61).heldBy 5 = true := by decide

/-- R14: RELEASE of a handle in the expired-handle list is answered EXPIRED once. -/
theorem test_release_expired :
    let s := queued.modPort 5 fun q => { q with expired := [0xBEFE, 0xBEFF] }
    let u := ran (.release 5) (asking 5 (frame 0x0E [0xBE, 0xFF]) s)
    answered u 5 = some (.expired, []) ∧ (u.port 5).expired = [0xBEFE] := by decide

/-- R101: RENEW moves the deadline to now plus the lease. -/
theorem test_renew :
    let s := (writing .queue []).setLeases
      [{ handle := 0x3DFF, port := 0, index := 61, kind := .write, deadline := 1000001, marked := false }]
    let u := ran (.renew 0) (asking 0 (frame 0x0F [0x3D, 0xFF]) s)
    answered u 0 = some (.ok, [1, 0, 0x0F, 0x46, 0x28]) ∧ u.leases.map LeaseEntry.deadline = [1001000] := by
  decide

/-! ## Queries -/

/-- R191: QUERY_DEVICE counts three records in use and one lease; the engine is in STANDBY. -/
theorem test_query_device :
    answered (ran (.queryDevice 0) (asking 0 (frame 0x12 []) (queued.setLeases [due]))) 0 =
      some (.ok, [0x4E, 0x12, 6, 16, 64, 128, 8, 3, 1, 1, 0, 0x0F, 0x42, 0x40]) := by decide

/-- R191: QUERY_BUFFER of the READY record B62. -/
theorem test_query_buffer :
    answered (ran (.queryBuffer 0) (asking 0 (frame 0x11 [62]) queued)) 0 =
      some (.ok, [62, 3, 0xFF, 0, 0xFF, 15, 0, 0, 0, 0x3E, 0, 0, 0, 1, 0, 0, 0xFF, 0, 0, 0, 9, 0, 0x0F, 0x3E, 0x58,
        0x30, 0, 0xFF, 15]) := by decide

/-- R191: QUERY_STREAM of S15: fixed part, one ready record, one free record and two consumers. -/
theorem test_query_stream :
    (answered (ran (.queryStream 0) (asking 0 (frame 0x10 [15]) queued)) 0).map (fun r => (r.1, r.2)) =
      some (.ok, [15, 2, 0, 1, 0, 1, 3, 2, 0, 10, 0, 0, 0, 0, 0, 0, 0, 0xFF, 0xFF, 0, 1, 2, 1, 1, 0, 0, 0, 0, 0,
        0xFF, 0xFF, 0xFF, 0xFF, 0, 0, 0, 3, 0, 0, 0, 0, 0, 0xFF] ++ [1, 62, 0, 0, 0, 9] ++ [1, 61] ++
        [2, 4, 2, 0, 0, 0, 0, 0, 0, 0xFF, 0xFF, 0, 5, 2, 0, 0, 0, 0, 0, 0, 0xFF, 0xFF, 0]) := by decide

/-- R155: a code the table does not list is answered BAD_REQUEST, before the session is looked at. -/
theorem test_unknown_request :
    answered (ran (.unknownRequest 0) (asking 0 { frame 0x13 [] with session := 0 } device)) 0 =
      some (.badRequest, []) := by decide

/-! ## Arbitration (worked sequence 8.3) -/

/-- Trackers of S2 and S7 with a report; P1 and P4 with HELD requests; the pointer at P4. -/
def waiting : State :=
  let held (p : Port) (s : State) : State :=
    s.modPort p fun q => { q with request := .held (.request (frame 0x12 [])) }
  let late (k : StreamId) (s : State) : State := s.modTracker k fun t => { t with late := 1 }
  (late 7 (late 2 (held 4 (held 1 device)))).setPointer 4

/-- Choice 1: the fill report goes first and leaves the pointer. -/
theorem test_choice_1 :
    let u := (waiting.setEngine { filling with state := .reporting (report .done) }).arbitrate
    u.core.map (fun x => x.item) = some (.fillReport (report .done)) ∧ u.pointer = 4 := by decide

/-- Choice 2: the cadence report of the lowest stream. -/
theorem test_choice_2 :
    waiting.arbitrate.core.map (fun x => x.item) = some (.cadenceReport 2 1 none none) := by decide

/-- Choices 4 and 6: P4 from the pointer at P4, P1 from the pointer at P5. -/
theorem test_choice_4_and_6 :
    let s := (waiting.setTracker 2 (device.tracker 2)).setTracker 7 (device.tracker 7)
    (s.arbitrate.core.map (fun x => x.item), s.arbitrate.pointer) = (some (.request 4), 5) ∧
      ((s.setPort 4 agent).setPointer 5).arbitrate.pointer = 2 := by decide

/-! ## Reports -/

/-- R141: a DONE fill tells its requester with the tag; the record stays WRITING. -/
theorem test_fill_report :
    let s := (writing .queue []).modRecord 61 (BufferRecord.setFill (.named 5))
    let u := ran .fillReportTaken (busy (.fillReport (report .done)) s)
    (u.record 61).fill = .noJob ∧ (u.port 0).notices.map (fun n => (n.kind, n.detail)) = [(.fillDone, some 5)] := by
  decide

/-- R103, R105: a WRITE expiry frees the buffer and enters the handle in the list. -/
theorem test_write_expiry :
    let e : LeaseEntry := { due with handle := 0x3DFF, port := 0, index := 61, kind := .write }
    let u := ran .writeExpiryTaken (busy (.leaseExpiry e) (writing .queue []))
    (u.record 61).use = fr 61 .free ∧ (u.port 0).expired = [0x3DFF] ∧
      (u.port 0).notices.map (fun n => (n.kind, n.detail)) = [(.writeLeaseExpired, some 0x3DFF)] := by decide

/-- R104, R106: a READ expiry ends the hold; the ninth handle pushes the oldest out. -/
theorem test_read_expiry :
    let s := live (stream .queue [] [61] [{ member 4 with readHolds := 1 }]) (fr 61 .free)
      (fr 62 (.draining stamp (ports [4]))) (fr 63 .settling)
    let s := s.modPort 4 fun q => { q with expired := [1, 2, 3, 4, 5, 6, 7, 8] }
    let u := ran .readExpiryTaken (busy (.leaseExpiry due) s)
    (u.record 62).use = fr 62 .free ∧ (u.port 4).expired = [2, 3, 4, 5, 6, 7, 8, 0xBEFF] := by decide

/-- R127: the late count goes out before the change of state. -/
theorem test_cadence_report :
    let u := ran (.cadenceReportTaken 15) (busy (.cadenceReport 15 15 (some .locked) (some 20044)) queued)
    (u.port 5).notices.map (fun n => (n.kind, n.detail)) =
      [(.frameLate, some 15), (.cadenceLocked, some 20044)] := by decide

/-! ## Events -/

/-- R102: a due head is marked and presented. -/
theorem test_lease_deadline :
    (ran .leaseDeadlineReached (device.setLeases [due])).core.map (fun x => x.item) =
      some (.leaseExpiry { due with marked := true }) := by decide

/-- A LOCKED tracker with the values of the worked sequence 6.10, event 5. -/
def locked : Tracker :=
  { state := .locked, params := { enable := true, tolerance := 4, lockCount := 3, unlockCount := 2, stallCount := 3 }
    interval := some 20044, lastPublish := some 1080050, lockCounter := 3, unlockCounter := 0, missCounter := 0
    watch := some 1101346, late := 0, change := some .locked }

/-- Worked sequence 6.10, events 4 and 5: the fifth publication locks. -/
theorem test_publication_locks :
    ({ locked with
        state := .acquiring, interval := some 20043, lastPublish := some 1060000, lockCounter := 2
        watch := none, change := none } : Tracker).publication 1080050 = locked := by decide

/-- R121: the deadline counts one miss, and the report with the late count 1 is granted at once. -/
theorem test_watch_deadline :
    let u := ran (.watchDeadlineReached 15)
      ({ device with timebase := 1101346 }.setTracker 15 { locked with change := none })
    (u.tracker 15).watch = some 1121390 ∧
      u.core.map (fun x => x.item) = some (.cadenceReport 15 1 none (some 20044)) := by decide

/-- Worked sequence 7.11, event 8: the last response of a flagged job ends it CANCELLED. -/
theorem test_fill_response :
    let e := { filling with jobs := [{ job 5 61 with cancel := true }] }
    (ran (.fillResponse 9 false) (device.setEngine e)).core.map (fun x => x.item) =
      some (.fillReport (report .cancelled)) := by decide

/-- R136: a response that does not match is ignored (worked sequence 7.11, event 10). -/
theorem test_fill_response_ignored :
    ran (.fillResponse 10 true) (device.setEngine filling) = device.setEngine filling := by decide

/-- R137: 64 µs after its issue a burst fails with TIMEOUT; the offset counts units of 256 bytes. -/
theorem test_burst_timeout :
    let s := { (writing .queue []).setEngine filling with timebase := 1000004 }
    (ran .burstTimeout s).core.map (fun x => x.item) = some (.fillReport (report (.failed .timeout 0x302))) := by
  decide

/-- R195: the pattern's most significant byte goes first. -/
theorem test_burst_accepted :
    let u := ran .burstAccepted (device.setEngine filling)
    u.engine.favalid = false ∧
      u.fillBeats.map (fun b => (b.tag, b.beats.length, b.beats.head?)) =
        some (9, 32, some [0x10, 0x80, 0x10, 0x80, 0x10, 0x80, 0x10, 0x80]) := by decide

/-- R132: QUIET ends at 1,000 µs and not before. -/
theorem test_quiet_end :
    let s := { device with engine := FillEngine.reset, timebase := 999 }
    (ran .quietEnd s).engine.state = .quiet ∧
      (ran .quietEnd { s with timebase := 1000 }).engine.state = .standby := by decide

/-- R163, R164: release, then the end of INIT. -/
theorem test_reset_and_init :
    let u := ran .resetRelease (ran .deviceReset queued)
    u.resetAsserted = false ∧ (u.port 5).state = .init ∧ ((ran .initEnd u).port 5).state = .detached := by decide +kernel

/-- R161 and log entry 2: on an empty queue one microsecond passes. -/
theorem test_idle : step device = .next { device with timebase := 1000001 } := by rfl

/-! ## Witnesses

Each theorem shows that the hypotheses of the statement it is named after, for each of its clauses, are met
together by a concrete state and concrete operands. -/

/-- An empty slot holds no item. -/
theorem not_held {q : AgentPort} (h : q.request = .empty) (i : SlotItem) : q.request ≠ .held i := by
  rw [h]
  exact nofun

/-- An OPEN stream is in CLOSING with no origin. -/
theorem not_closing {x : StreamPhase} (h : x = .opened) (o : CloseOrigin) : x ≠ .closing o := by
  rw [h]
  exact nofun

theorem test_witness_StepRunsTheFrontCommand :
    (device.setPending [.quietEnd, .initEnd]).pending = .quietEnd :: [.initEnd] := rfl

theorem test_witness_IdleStepPassesAMicrosecond :
    State.reset.pending = [] ∧ device.pending = [] := ⟨rfl, rfl⟩

theorem test_witness_ReleaseAndInitStartTheDevice :
    State.reset.resetAsserted = true ∧
      ((ran .resetRelease State.reset).resetAsserted = false ∧
        ((ran .resetRelease State.reset).port 5).state = .init) ∧
      (device.resetAsserted = false ∧ ∀ p, (device.port p).state ≠ .init) := by decide +kernel

theorem test_witness_ReleaseAndInitStartTheDevice_select :
    (State.reset.port 5).select = .high ∧ ((withPort 5 { agent with select := .high }).port 5).select = .high ∧
      (device.port 5).select ≠ .high ∧
      (((withPort 5 { agent with select := .held }).port 5).select = .held ∧
        ((withPort 5 { agent with select := .held }).port 5).transaction = none) ∧
      (0x5B : Byte) ∉ [0x5A, 0xC3, 0x3C, 0xA5, (0x96 : Byte)] := by decide

theorem test_witness_SubmitAcceptsChecksAndHolds :
    device.PortReady 5 ∧
      ((withPort 5 { agent with transaction := some (.submit false) }).port 5).transaction =
        some (.submit false) ∧
      ((withPort 5 { agent with transaction := some (.submit true) }).port 5).transaction = some (.submit true) ∧
      (List.replicate 112 (0 : Byte)).length ≤ 112 := by decide +kernel

theorem test_witness_SubmitAcceptsChecksAndHolds_bad :
    ∀ code session payload, payload.length ≤ 112 →
      List.replicate 118 (0 : Byte) ≠ withCrc (frameBody code session payload) := by
  intro code session payload h e
  have := congrArg List.length e
  simp [withCrc, frameBody, bytesOfNat] at this
  omega

theorem test_witness_CollectEmptiesTheSlotWhenWhole :
    device.PortReady 5 ∧
      ((withPort 5 { agent with transaction := some (.collect [1, 2] true) }).port 5).transaction =
        some (.collect [1, 2] true) := by decide

theorem test_witness_StatusShowsThePortAndClearsLatches :
    device.PortReady 5 ∧
      ((withPort 5 { agent with transaction := some (.status [1, 2, 3, 4] true false) }).port 5).transaction =
        some (.status [1, 2, 3, 4] true false) := by decide

theorem test_witness_NoticePopsOrKeepsTheHead :
    device.PortReady 5 ∧
      ((withPort 5 { agent with transaction := some (.notice [1] true 255 0) }).port 5).transaction =
        some (.notice [1] true 255 0) := by decide

theorem test_witness_PortResetAndUnknownCodes :
    (device.PortReady 5 ∧ (device.port 5).state = .attached) ∧
      (device.PortReady 5 ∧ ((withPort 5 { agent with state := .resetting }).port 5).state = .resetting ∧
        (withPort 5 { agent with state := .resetting }).PortReady 5) ∧
      (0x5B : Byte) ∉ [0x5A, 0xC3, 0x3C, 0xA5, (0x96 : Byte)] := by decide

theorem test_witness_ArbiterChoosesInOrder :
    (busy (.request 0) device).core ≠ none ∧ (State.reset.port 5).state = .init ∧
      (device.core = none ∧ ∀ p, (device.port p).state ≠ .init) ∧
      (device.setEngine { filling with state := .reporting (report .done) }).engine.state =
        .reporting (report .done) ∧
      ((device.setLeases [due, { due with marked := true }]).leases = [due] ++ { due with marked := true } :: [] ∧
        due.marked = false) ∧
      ((∀ e ∈ (device.setLeases [due]).leases, e.marked = false) ∧
        ((device.setTracker 15 { locked with late := 15 }).tracker 15).late ≠ 0 ∧
        ∀ j, j < 15 → ((device.setTracker 15 { locked with late := 15 }).tracker j).late = 0 ∧
          ((device.setTracker 15 { locked with late := 15 }).tracker j).change = none) ∧
      (∀ k, (device.tracker k).late = 0 ∧ (device.tracker k).change = none) := by decide +kernel

theorem test_witness_ArbiterChoosesInOrder_idle :
    (∀ r, device.engine.state ≠ .reporting r) ∧ ∀ p i, (device.port p).request ≠ .held i :=
  ⟨nofun, fun p => not_held ((by decide : ∀ p, (device.port p).request = .empty) p)⟩

/-- P3, the last of the six examined from the pointer at P4, holds a forced detach. -/
def lastHeld : State := (withPort 3 { agent with request := .held .forcedDetach }).setPointer 4

theorem test_witness_RoundRobinServesPorts :
    (lastHeld.core = none ∧ (∀ p, (lastHeld.port p).state ≠ .init) ∧
      (∀ r, lastHeld.engine.state ≠ .reporting r) ∧ (∀ e ∈ lastHeld.leases, e.marked = false) ∧
      (∀ k, (lastHeld.tracker k).late = 0 ∧ (lastHeld.tracker k).change = none)) ∧
      (∀ c : Fin 6, c < 5 → ∀ i, (lastHeld.port (lastHeld.pointer + c)).request ≠ .held i) ∧
      (lastHeld.port (lastHeld.pointer + 5)).request = .held .forcedDetach :=
  ⟨⟨rfl, by decide, nofun, by decide, by decide⟩,
    fun c h => not_held
      ((by decide : ∀ c : Fin 6, c < 5 → (lastHeld.port (lastHeld.pointer + c)).request = .empty) c h),
    by decide⟩

theorem test_witness_CodeLengthAndSessionAreCheckedFirst :
    ((asking 5 (frame 0x13 []) device).Executes 5 (frame 0x13 []) 999990 ∧ (frame 0x13 []).request = none) ∧
      ((asking 5 (frame 0x01 [0, 0, 0, 0, 0]) device).Executes 5 (frame 0x01 [0, 0, 0, 0, 0]) 999990 ∧
        (frame 0x01 [0, 0, 0, 0, 0]).request = some .attach ∧
        ((asking 5 (frame 0x01 [0, 0, 0, 0, 0]) device).port 5).inForce = true) ∧
      ((frame 0x12 []).request = some .queryDevice ∧ Request.queryDevice ≠ .attach ∧
        ((asking 5 (frame 0x12 []) (withPort 5 { agent with inForce := false })).port 5).inForce = false) ∧
      ((asking 5 { frame 0x12 [] with session := 6 } device).Executes 5 { frame 0x12 [] with session := 6 } 999990 ∧
        ({ frame 0x12 [] with session := 6 } : RequestFrame).session ≠
          ((asking 5 { frame 0x12 [] with session := 6 } device).port 5).session) := by decide

theorem test_witness_RefusedRequestsChangeNothing :
    (asking 5 (frame 0x13 []) device).Executes 5 (frame 0x13 []) 999990 := by decide

/-- A mask and an enables byte with every bit that they may have. -/
def fullMask : List Byte := [0, 0x0F, 0xFF, 0xFE, 3]

/-- What R174 and R175 ask of the mask and the enables of a request. -/
def GoodMask (f : RequestFrame) : Prop :=
  (∀ b, f.mask.getLsbD b = true → 1 ≤ b ∧ b ≤ 19) ∧ ∀ b, f.enables.getLsbD b = true → b ≤ 1

theorem test_witness_AttachAndMaskSetTheSession :
    let s := asking 5 (frame 0x01 fullMask) (withPort 5 { agent with inForce := false, session := 255 })
    let u := asking 5 (frame 0x03 fullMask) device
    (s.Executes 5 (frame 0x01 fullMask) 999990 ∧ (frame 0x01 fullMask).request = some .attach ∧
      (s.port 5).inForce = false) ∧
      u.Executes 5 (frame 0x03 fullMask) 999990 ∧ (frame 0x03 fullMask).request = some .setNoticeMask ∧
        u.InSession 5 (frame 0x03 fullMask) := by decide

theorem test_witness_AttachAndMaskSetTheSession_good : GoodMask (frame 0x01 fullMask) :=
  ⟨fun b h => (by decide : ∀ b < 32, (frame 0x01 fullMask).mask.getLsbD b = true → 1 ≤ b ∧ b ≤ 19) b
      (BitVec.lt_of_getLsbD h) h,
    fun b h => (by decide : ∀ b < 8, (frame 0x01 fullMask).enables.getLsbD b = true → b ≤ 1) b
      (BitVec.lt_of_getLsbD h) h⟩

theorem test_witness_AttachAndMaskSetTheSession_bad : ¬GoodMask (frame 0x01 [0, 0, 0, 1, 3]) :=
  fun h => absurd (h.1 0 (by decide)) (by decide)

theorem test_witness_DetachEndsTheSession :
    let s := asking 5 (frame 0x02 []) device
    (s.Executes 5 (frame 0x02 []) 999990 ∧ s.InSession 5 (frame 0x02 []) ∧
      (frame 0x02 []).request = some .detach) ∧
      (busy (.forcedDetach 5) device).core = some { item := .forcedDetach 5, takenAt := 999990 } := by decide

theorem test_witness_DetachActionsRemoveThePort :
    (queued.detachActions 4).stream 15 ≠ none ∧ queued.detachActions 4 ≠ queued := by decide +kernel

/-- S15 with B62 held by its consumer P5. -/
def holding : State :=
  live (stream .queue [62] [61] [member 4, { member 5 with readHolds := 1 }]) (fr 61 .free)
    (fr 62 (.ready stamp (some (ports [4])) (ports [5]))) (fr 63 .settling)

theorem test_witness_DetachActionsRemoveThePort_holds :
    ∀ i, (holding.record i).heldBy 5 = true → ∃ k st, (holding.record i).names k = true ∧
      holding.stream k = some st ∧ ((∃ c ∈ st.consumers, c.port = 5) ∨ ∃ o, st.phase = .closing o) := by
  intro i h
  obtain rfl := (by decide +kernel : ∀ i, (holding.record i).heldBy 5 = true → i = 62) i h
  exact ⟨15, _, rfl, rfl, .inl ⟨{ member 5 with readHolds := 1 }, by decide, rfl⟩⟩

theorem test_witness_DetachActionsRemoveThePort_produced :
    let orphan := stream .queue [62] [61] [member 4, member 5]
    let unread := stream .queue [] [63] []
    let early := { stream .queue [] [61] [] with phase := .preparing }
    (queued.stream 15 = some orphan ∧ orphan.producer = 0 ∧ orphan.producerPresent = true ∧
      (∀ c ∈ orphan.consumers, c.port ≠ 0) ∧ orphan.phase = .opened ∧ orphan.consumers ≠ [] ∧
      ∃ c ∈ orphan.consumers, c.port = 5) ∧
      ((writing .queue []).stream 15 = some unread ∧ unread.producer = 0 ∧ unread.producerPresent = true ∧
        unread.phase = .opened ∧ unread.consumers = [] ∧ ((writing .queue []).detachActions 0).stream 15 ≠ none) ∧
      ((live early (fr 61 .free) (fr 62 .settling) .unassigned).stream 15 = some early ∧ early.producer = 0 ∧
        ((live early (fr 61 .free) (fr 62 .settling) .unassigned).detachActions 0).stream 15 ≠ none) ∧
      (((writing .queue []).record 61).names 15 = true ∧ ((writing .queue []).record 61).writer ≠ none ∧
        ∀ j, ((writing .queue []).record j).names 15 = true → ((writing .queue []).record j).writer ≠ none →
          j = 61) := by decide +kernel

theorem test_witness_DetachActionsRemoveThePort_phase (o : CloseOrigin) :
    (stream .queue [] [63] []).phase ≠ .closing o := not_closing rfl o

/-- The hypotheses of OpenStreamCreatesTheStream for an open that takes context S`k`. -/
def OpenReady (s : State) (p : Port) (f : RequestFrame) (k : StreamId) : Prop :=
  s.Executes p f 999990 ∧ s.InSession p f ∧ f.request = some .openStream ∧ f.parametersInRange = true ∧
    (∀ d ∈ f.descriptors, d.inBounds = true) ∧ firstConflict s.regionMap f.descriptors 0 = none ∧
    s.producerCount p < 4 ∧ s.stream k = none ∧ (∀ j, j < k → s.stream j ≠ none) ∧
    f.recordCount ≤ s.unassigned.length ∧ (f.hasFallback = true → s.engine.jobs.length < 8)

/-- Every context but S15 is live. -/
def crowded : State := { device with streams := (Vector.replicate 16 (some (stream .queue [] [] []))).set 15 none }

theorem test_witness_OpenStreamCreatesTheStream :
    OpenReady (asking 5 (frame 0x04 openLatest) device) 5 (frame 0x04 openLatest) 0 ∧
      (frame 0x04 openLatest).hasFallback = true ∧
      OpenReady (asking 5 (frame 0x04 openQueue) crowded) 5 (frame 0x04 openQueue) 15 ∧
      (frame 0x04 openQueue).hasFallback = false := by
  simp only [OpenReady]
  decide +kernel

/-- No record is UNASSIGNED. -/
def packed : State :=
  { device with records := Vector.replicate 64 { generation := 0, fill := .noJob, use := fr 63 .free } }

/-- The engine's queue is full. -/
def loaded : State := device.setEngine { filling with jobs := (List.range 8).map fun n => job (BitVec.ofNat 8 n) 0 }

theorem test_witness_OpenStreamChecksInOrder :
    (∀ f ∈ [frame 0x04 openQueue, frame 0x04 (openQueue.set 2 1), frame 0x04 (open110 0), frame 0x04 openLatest],
      (asking 5 f device).Executes 5 f 999990 ∧ (asking 5 f device).InSession 5 f ∧
        f.request = some .openStream) ∧
      (frame 0x04 (openQueue.set 2 1)).parametersInRange = false ∧
      ((frame 0x04 (open110 0)).parametersInRange = true ∧
        ∃ front d back, (frame 0x04 (open110 0)).descriptors = front ++ d :: back ∧
          (∀ x ∈ front, x.inBounds = true) ∧ d.inBounds = false) :=
  ⟨by decide +kernel, by decide, by decide,
    [⟨0x3800000, 0x800000⟩, ⟨0x3C00000, 0x400000⟩], ⟨0x3000080, 0x1000⟩, [], by decide, by decide, by decide⟩

/-- Worked example 1.10 with a third base that is a multiple of 256. -/
def overlapping : RequestFrame := frame 0x04 (((open110 1).set 42 0x01).set 43 0)

theorem test_witness_OpenStreamChecksInOrder_conflict :
    overlapping.parametersInRange = true ∧ (∀ d ∈ overlapping.descriptors, d.inBounds = true) ∧
      overlapping.descriptors =
        [⟨0x3800000, 0x800000⟩] ++ ⟨0x3C00000, 0x400000⟩ :: overlapping.descriptors.drop 2 ∧
      (∀ y ∈ device.regionMap, (⟨0x3800000, 0x800000⟩ : Region).overlaps y = false) ∧
      ∃ y ∈ [(⟨0x3800000, 0x800000⟩ : Region)], (⟨0x3C00000, 0x400000⟩ : Region).overlaps y = true := by
  decide +kernel

theorem test_witness_OpenStreamChecksInOrder_tables :
    let f := frame 0x04 openQueue
    let g := frame 0x04 openLatest
    (f.parametersInRange = true ∧ (∀ d ∈ f.descriptors, d.inBounds = true) ∧
      firstConflict device.regionMap f.descriptors 0 = none ∧ 4 ≤ crowded.producerCount 0) ∧
      (firstConflict crowded.regionMap f.descriptors 0 = none ∧ crowded.producerCount 5 < 4 ∧
        ∀ k, (crowded.setStream 15 (crowded.stream 0)).stream k ≠ none) ∧
      (firstConflict packed.regionMap f.descriptors 0 = none ∧ packed.producerCount 5 < 4 ∧
        (∃ k, packed.stream k = none) ∧ packed.unassigned.length < f.recordCount) ∧
      (firstConflict loaded.regionMap g.descriptors 0 = none ∧ loaded.producerCount 5 < 4 ∧
        (∃ k, loaded.stream k = none) ∧ g.recordCount ≤ loaded.unassigned.length ∧ g.hasFallback = true ∧
        8 ≤ loaded.engine.jobs.length) := by decide +kernel

/-- S15 with one consumer, LATEST or QUEUE, and room for P5. -/
def joinable (policy : Policy) : State :=
  asking 5 (frame 0x06 [15, 1, 4, 1])
    (live { stream policy [62] [61] [member 4] with frameCount := 4 } (fr 61 .free)
      (fr 62 (.ready stamp (match policy with | .queue => some (ports [4]) | .latest => none) PortSet.empty))
      (fr 63 .free))

theorem test_witness_JoinAppendsAConsumer :
    ∀ policy ∈ [Policy.queue, Policy.latest],
      let s := joinable policy
      let f := frame 0x06 [15, 1, 4, 1]
      let st := { stream policy [62] [61] [member 4] with frameCount := 4 }
      s.Executes 5 f 999990 ∧ s.InSession 5 f ∧ f.request = some .join ∧ f.field 0 1 = (15 : StreamId).val ∧
        f.field 1 1 ≤ 1 ∧ 1 ≤ f.field 2 1 ∧ f.field 2 1 ≤ 4 ∧ f.field 3 1 ≤ 1 ∧ s.stream 15 = some st ∧
        st.phase = .opened ∧ st.producer ≠ 5 ∧ (∀ c ∈ st.consumers, c.port ≠ 5) ∧
        st.consumers.length < st.consumerLimit ∧ s.consumerCount 5 < 8 ∧
        (st.policy = .latest → st.consumers.length + 1 + 2 ≤ st.frameCount) := by decide +kernel

/-- P5 joins with request `f` a stream that stands as `st`, its records in no state that matters. -/
def joining (f : RequestFrame) (st : Stream) : State :=
  asking 5 f (live st .unassigned .unassigned .unassigned)

/-- P5 consumes the eight streams S0 to S7 and asks to join S15. -/
def eightRoles : State :=
  let s := joining (frame 0x06 [15, 1, 4, 1]) (stream .queue [] [] [member 4])
  { s with streams := Vector.ofFn fun k =>
      if k.val < 8 then some (stream .queue [] [] [member 5]) else s.stream k }

/-- What a JOIN of P5 asks before its own checks. -/
abbrev JoinReady (f : RequestFrame) (s : State) : Prop :=
  s.Executes 5 f 999990 ∧ s.InSession 5 f ∧ f.request = some .join

theorem test_witness_JoinAppendsAConsumer_range :
    (∀ x ∈ [frame 0x06 [15, 2, 4, 1], frame 0x06 [15, 1, 0, 1], frame 0x06 [15, 1, 5, 1], frame 0x06 [15, 1, 4, 2]],
      JoinReady x (joining x (stream .queue [] [] [member 4])) ∧
        ¬(x.field 1 1 ≤ 1 ∧ 1 ≤ x.field 2 1 ∧ x.field 2 1 ≤ 4 ∧ x.field 3 1 ≤ 1)) ∧
      (15 < (frame 0x06 [16, 1, 4, 1]).field 0 1 ∧
        (frame 0x06 [14, 1, 4, 1]).field 0 1 = (14 : StreamId).val ∧
        (joining (frame 0x06 [14, 1, 4, 1]) (stream .queue [] [] [member 4])).stream 14 = none) := by
  decide +kernel

theorem test_witness_JoinAppendsAConsumer_refused :
    let f := frame 0x06 [15, 1, 4, 1]
    let one := stream .queue [] [] [member 4]
    (∀ st ∈ [{ one with phase := .orphaned }, { one with producer := 5 }, { one with consumers := [member 5] },
        { one with consumerLimit := 1 }, { one with policy := .latest }],
      JoinReady f (joining f st) ∧ (joining f st).stream 15 = some st) ∧
      (JoinReady f eightRoles ∧ eightRoles.stream 15 = some one ∧ eightRoles.consumerCount 5 = 8) ∧
      (one.phase = .opened ∧ one.producer ≠ 5 ∧ (∀ c ∈ one.consumers, c.port ≠ 5) ∧
        one.consumers.length < one.consumerLimit ∧ one.frameCount < one.consumers.length + 1 + 2 ∧
        (joining f { one with policy := .latest }).consumerCount 5 < 8) ∧
      one.consumers.length = 1 := by decide +kernel

theorem test_witness_LeaveDeparts :
    let s := asking 5 (frame 0x07 [15]) queued
    let st := stream .queue [62] [61] [member 4, member 5]
    let v := asking 3 (frame 0x07 [15]) queued
    (s.Executes 5 (frame 0x07 [15]) 999990 ∧ s.InSession 5 (frame 0x07 [15]) ∧
      (frame 0x07 [15]).request = some .leave ∧ (frame 0x07 [15]).field 0 1 = (15 : StreamId).val ∧
      s.stream 15 = some st ∧ ∃ c ∈ st.consumers, c.port = 5) ∧
      (v.Executes 3 (frame 0x07 [15]) 999990 ∧ v.InSession 3 (frame 0x07 [15]) ∧ v.stream 15 = some st ∧
        ∀ c ∈ st.consumers, c.port ≠ 3) := by decide +kernel

theorem test_witness_LeaveDeparts_phase (o : CloseOrigin) :
    (stream .queue [62] [61] [member 4, member 5]).phase ≠ .closing o := not_closing rfl o

theorem test_witness_DepartureRemovesTheConsumer :
    queued.stream 15 = some (stream .queue [62] [61] [member 4, member 5]) ∧
      (queued.depart 5 15).stream 15 ≠ none ∧ (queued.record 62).names 15 = true ∧
      (∃ c ∈ [member 4, member 5], c.port ≠ 5) := by decide +kernel

theorem test_witness_DepartureRemovesTheConsumer_holds :
    ((holding.record 62).names 15 = true ∧ (holding.record 62).heldBy 5 = true ∧
      (holding.depart 5 15).stream 15 ≠ none) ∧
      (stream .queue [62] [61] [member 4, { member 5 with readHolds := 1 }]).phase ≠ .orphaned := by decide +kernel

theorem test_witness_DepartureRemovesTheConsumer_waiting :
    let st := { stream .queue [] [61] [member 5] with producerWaiting := true }
    let s := live st (fr 61 .free) (fr 62 (.draining stamp (ports [5]))) (fr 63 .settling)
    s.stream 15 = some st ∧ st.producerWaiting = true ∧ st.producerPresent = true ∧
      ((s.depart 5 15).port 0).notices.map (fun n => (n.kind, n.detail)) =
        [(.bufferAvailable, some 62), (.consumerLeft, some 5)] := by decide +kernel

theorem test_witness_DepartureRemovesTheConsumer_phase (o : CloseOrigin) :
    (stream .queue [62] [61] [member 4, member 5]).phase ≠ .closing o := not_closing rfl o

theorem test_witness_CloseStreamEntersClosing :
    let s := asking 0 (frame 0x05 [15]) queued
    let v := asking 5 (frame 0x05 [15]) queued
    let st := stream .queue [62] [61] [member 4, member 5]
    (s.Executes 0 (frame 0x05 [15]) 999990 ∧ s.InSession 0 (frame 0x05 [15]) ∧
      (frame 0x05 [15]).request = some .closeStream ∧ (frame 0x05 [15]).field 0 1 = (15 : StreamId).val ∧
      s.stream 15 = some st ∧ st.phase = .opened ∧ st.producer = 0) ∧
      (v.Executes 5 (frame 0x05 [15]) 999990 ∧ v.InSession 5 (frame 0x05 [15]) ∧ v.stream 15 = some st ∧
        st.producer ≠ 5) := by decide +kernel

theorem test_witness_EntryIntoClosingTakesMembership :
    queued.stream 15 = some (stream .queue [62] [61] [member 4, member 5]) ∧
      (queued.enterClosing 15 .request).stream 15 ≠ none := by decide +kernel

/-- S15 in CLOSING, with B63 alone still named or not yet settled. -/
def closing (c : FrameState) : State :=
  live { stream .queue [] [63] [] with phase := .closing .request } .unassigned .unassigned (fr 63 c)

/-- S15 without a FREE buffer: B61 is held, B62 is not. -/
def exhausted : State :=
  live (stream .queue [61, 62] [] [member 4, member 5]) (fr 61 (.ready stamp (some (ports [5])) (ports [4])))
    (fr 62 (.ready stamp (some (ports [4, 5])) PortSet.empty)) (fr 63 .settling)

theorem test_witness_EntryIntoClosingTakesMembership_ready :
    (exhausted.enterClosing 15 .request).stream 15 ≠ none ∧ exhausted.NoWriter 15 ∧
      (61 : RecordId) ∈ [61, (62 : RecordId)] ∧
      (exhausted.record 61).use = .frame (region 61) (.ready stamp (some (ports [5])) (ports [4])) ∧
      (exhausted.record 62).use = .frame (region 62) (.ready stamp (some (ports [4, 5])) PortSet.empty) ∧
      ([member 4, member 5].map Consumer.port).Nodup ∧
      ((latest .valid).enterClosing 15 .request).stream 15 = none := by decide +kernel

theorem test_witness_EntryIntoClosingTakesMembership_writer :
    ∀ e ∈ [filling, { filling with state := .quiet }], ∀ x ∈ [FillRef.noJob, .named 5],
      let s := ((writing .queue []).modRecord 61 (BufferRecord.setFill x)).setEngine e
      (s.record 61).names 15 = true ∧ (s.record 61).use = .frame (region 61) (.writing 0) ∧
        (∀ j, j ≠ 61 → (s.record j).names 15 = true → (s.record j).writer = none) ∧
        (s.record 61).fill = x ∧ s.stream 15 = some (stream .queue [] [63] []) ∧
        (s.enterClosing 15 .failure).stream 15 ≠ none := by decide +kernel

theorem test_witness_EntryIntoClosingTakesMembership_fallback :
    ∀ x ∈ [FillRef.noJob, .named 5],
      let s := (((latest .valid).modRecord 61 (BufferRecord.mapHold fun y => y.add 5)).modRecord 61
        (BufferRecord.setFill x)).setEngine filling
      (s.enterClosing 15 .departure).stream 15 ≠ none ∧ s.fallbackOf 15 = some 61 ∧ (s.record 61).fill = x ∧
        s.NoWriter 15 ∧ s.stream 15 = some (stream .latest [62] [63] [member 4, member 5]) := by decide +kernel

theorem test_witness_CloseCompletesWhenSettled :
    ((closing .free).stream 15 = some { stream .queue [] [63] [] with phase := .closing .request }) ∧
      ((closing .settling).stream 15 = some { stream .queue [] [63] [] with phase := .closing .request }) ∧
      (∀ i, ((closing .free).record i).names 15 = true → i = 63) ∧
      ((closing .free).record 63).fill = .noJob ∧ ((closing .free).record 63).use = .frame (region 63) .free ∧
      ((closing .settling).record 63).names 15 = true ∧
      ((closing .settling).record 63).use = .frame (region 63) .settling ∧ FrameState.settling ≠ .free := by
  decide +kernel

/-! ### Producing -/

/-- P0 asks for a buffer of S15. -/
def acquiring (s : State) : State := asking 0 (frame 0x08 [15]) s

theorem test_witness_AcquireWriteTakesTheFreeHead :
    let s := acquiring queued
    let st := stream .queue [62] [61] [member 4, member 5]
    s.Executes 0 (frame 0x08 [15]) 999990 ∧ s.InSession 0 (frame 0x08 [15]) ∧
      (frame 0x08 [15]).request = some .acquireWrite ∧ (frame 0x08 [15]).field 0 1 = (15 : StreamId).val ∧
      s.stream 15 = some st ∧ st.phase = .opened ∧ st.producer = 0 ∧ s.NoWriter 15 ∧ st.free = 61 :: [] ∧
      (s.record 61).use = .frame (region 61) .free ∧ s.LeaseRoom st.writeLease := by decide +kernel

theorem test_witness_AcquireWriteDropsTheOldest :
    let s := acquiring exhausted
    let st := stream .queue [61, 62] [] [member 4, member 5]
    s.Executes 0 (frame 0x08 [15]) 999990 ∧ s.InSession 0 (frame 0x08 [15]) ∧
      (frame 0x08 [15]).request = some .acquireWrite ∧ (frame 0x08 [15]).field 0 1 = (15 : StreamId).val ∧
      s.stream 15 = some st ∧ st.phase = .opened ∧ st.producer = 0 ∧ s.NoWriter 15 ∧ st.free = [] ∧
      st.policy = .queue ∧ st.overflow = .dropOldest ∧ st.ready = [61] ++ 62 :: [] ∧
      (∀ j ∈ [(61 : RecordId)], (s.record j).unheld = false) ∧
      (s.record 62).use = .frame (region 62) (.ready stamp (some (ports [4, 5])) PortSet.empty) ∧
      s.LeaseRoom st.writeLease := by decide +kernel

theorem test_witness_AcquireWriteRefusals :
    let s := acquiring queued
    let w := acquiring (writing .queue [])
    let b := acquiring (live (stream .latest [] [] []) (fr 61 .settling) (fr 62 .settling) (fr 63 .settling))
    let l := s.setLeases (List.replicate 128 due)
    (∀ x ∈ [s, w, b, l], x.Executes 0 (frame 0x08 [15]) 999990 ∧ x.InSession 0 (frame 0x08 [15])) ∧
      (frame 0x08 [15]).request = some .acquireWrite ∧ (frame 0x08 [15]).field 0 1 = (15 : StreamId).val ∧
      (stream .queue [] [] []).producer ≠ 5 ∧
      ((w.record 61).names 15 = true ∧ (w.record 61).writer = some 0) ∧
      (b.stream 15 = some (stream .latest [] [] []) ∧ b.NoWriter 15) ∧
      (l.stream 15 = some (stream .queue [62] [61] [member 4, member 5]) ∧ l.NoWriter 15 ∧
        (stream .queue [62] [61] []).writeLease ≠ 0 ∧ 128 ≤ l.leases.length) := by decide +kernel

theorem test_witness_AcquireWriteRefusals_victim :
    let s := (acquiring exhausted).setLeases (List.replicate 128 due)
    let st := stream .queue [61, 62] [] [member 4, member 5]
    s.Executes 0 (frame 0x08 [15]) 999990 ∧ s.InSession 0 (frame 0x08 [15]) ∧ s.stream 15 = some st ∧
      s.NoWriter 15 ∧ st.free = [] ∧ st.policy = .queue ∧ st.overflow = .dropOldest ∧
      (62 : RecordId) ∈ st.ready ∧ (s.record 62).unheld = true ∧ st.writeLease ≠ 0 ∧ s.leases.length = 128 := by
  decide +kernel

/-- P0 publishes B61 of S15. -/
def publishing (s : State) : State := asking 0 (frame 0x09 [0x3D, 0xFF]) s

/-- What the three PUBLISH statements ask of the request. -/
def PublishReady (s : State) (st : Stream) : Prop :=
  s.Executes 0 (frame 0x09 [0x3D, 0xFF]) 999990 ∧ s.InSession 0 (frame 0x09 [0x3D, 0xFF]) ∧
    (frame 0x09 [0x3D, 0xFF]).request = some .publish ∧
    (frame 0x09 [0x3D, 0xFF]).handle = formHandle .write 61 (s.record 61).generation ∧
    (s.record 61).use = .frame (region 61) (.writing 0) ∧ (s.record 61).fill = .noJob ∧
    s.stream (region 61).stream = some st ∧ st.phase = .opened

theorem test_witness_PublishQueuesTheFrame :
    PublishReady (publishing (writing .queue [member 4, member 5])) (stream .queue [] [63] [member 4, member 5]) ∧
      (stream .queue [] [63] [member 4, member 5]).consumers ≠ [] := by
  simp only [PublishReady]
  decide +kernel

theorem test_witness_PublishQueuesTheFrame_pending :
    let s := publishing ((writing .queue []).modRecord 61 (BufferRecord.setFill (.named 5)))
    let f := frame 0x09 [0x3D, 0xFF]
    s.Executes 0 f 999990 ∧ s.InSession 0 f ∧ f.request = some .publish ∧
      f.handle = formHandle .write 61 (s.record 61).generation ∧
      (s.record 61).use = .frame (region 61) (.writing 0) ∧ (s.record 61).fill ≠ .noJob ∧
      s.stream 15 = some (stream .queue [] [63] []) := by decide +kernel

theorem test_witness_PublishUnreadDropsTheFrame :
    PublishReady (publishing (writing .queue [])) (stream .queue [] [63] []) ∧
      (stream .queue [] [63] []).consumers = [] ∧ (stream .queue [] [63] []).producerWaiting = false := by
  simp only [PublishReady]
  decide +kernel

/-- S15, LATEST, with the frame B62 READY and held. -/
def superseding : State :=
  live (stream .latest [62] [63] [member 4, member 5]) (fr 61 (.writing 0)) (fr 62 (.ready stamp none (ports [5])))
    (fr 63 .free)

theorem test_witness_PublishSupersedesTheLatest :
    (PublishReady (publishing superseding) (stream .latest [62] [63] [member 4, member 5]) ∧
      (stream .latest [62] [63] [member 4, member 5]).ready = [62] ∧
      ((publishing superseding).record 62).use = .frame (region 62) (.ready stamp none (ports [5]))) ∧
      PublishReady (publishing (writing .latest [])) (stream .latest [] [63] []) ∧
      (stream .latest [] [63] []).ready = [] := by
  simp only [PublishReady]
  decide +kernel

/-- P0 discards B61, whose fill names job 5 of this engine. -/
def discarding (x : FillRef) (e : FillEngine) : State :=
  asking 0 (frame 0x0A [0x3D, 0xFF])
    (((writing .queue []).modRecord 61 (BufferRecord.setFill x)).setEngine e)

theorem test_witness_DiscardEndsTheWriteHandle :
    let f := frame 0x0A [0x3D, 0xFF]
    let waits := { filling with jobs := [job 4 61, job 5 61] }
    (∀ s ∈ [discarding .noJob filling, discarding (.named 5) filling, discarding (.named 5) waits],
      s.Executes 0 f 999990 ∧ s.InSession 0 f ∧ f.request = some .discard ∧
        f.handle = formHandle .write 61 (s.record 61).generation ∧
        (s.record 61).use = .frame (region 61) (.writing 0) ∧ s.stream 15 = some (stream .queue [] [63] [])) ∧
      ((discarding .noJob filling).record 61).fill = .noJob ∧
      ((discarding (.named 5) filling).record 61).fill = .named 5 ∧
      ((discarding (.named 5) filling).engine.cancel 5).1 = .marked ∧
      ((discarding (.named 5) waits).engine.cancel 5).1 ≠ .marked := by decide +kernel

theorem test_witness_FreedBufferJoinsTheFreeList :
    (queued.record 63).use = .frame (region 63) .settling ∧
      queued.stream 15 = some (stream .queue [62] [61] [member 4, member 5]) := by decide

/-- FILL of the last 256 bytes of B61. -/
def fillFrame (offset length : Byte) : RequestFrame :=
  frame 0x0B [0x3D, 0xFF, 1, 2, 3, 4, 0, 0, offset, 0, 0, length]

theorem test_witness_FillRequestsSubmitJobs_fill :
    let s := asking 0 (fillFrame 255 1) (writing .queue [])
    let f := fillFrame 255 1
    s.Executes 0 f 999990 ∧ s.InSession 0 f ∧ s.engine.jobs.length < 8 ∧ f.request = some .fill ∧
      f.fillOffset ≤ 262143 ∧ f.fillLength ≤ 262144 ∧
      f.handle = formHandle .write 61 (s.record 61).generation ∧
      (s.record 61).use = .frame (region 61) (.writing 0) ∧ (s.record 61).fill = .noJob ∧
      s.stream 15 = some (stream .queue [] [63] []) ∧ (stream .queue [] [63] []).phase = .opened ∧
      f.fillOffset * 256 < (region 61).length.toNat ∧
      (f.fillLength ≠ 0 → (f.fillOffset + f.fillLength) * 256 ≤ (region 61).length.toNat) := by decide +kernel

/-- A FILL with the offset one above its range. -/
def farFill : RequestFrame := frame 0x0B [0x3D, 0xFF, 1, 2, 3, 4, 4, 0, 0, 0, 0, 1]

theorem test_witness_FillRequestsSubmitJobs_fill_refused :
    let w := writing .queue []
    (∀ f ∈ [farFill, fillFrame 255 1, fillFrame 255 2],
      (asking 0 f w).Executes 0 f 999990 ∧ (asking 0 f w).InSession 0 f ∧ f.request = some .fill ∧
        f.handle = formHandle .write 61 (w.record 61).generation) ∧
      262143 < farFill.fillOffset ∧
      ((fillFrame 255 2).fillOffset ≤ 262143 ∧ (fillFrame 255 2).fillLength ≤ 262144 ∧
        (fillFrame 255 2).fillLength ≠ 0 ∧
        (region 61).length.toNat < ((fillFrame 255 2).fillOffset + (fillFrame 255 2).fillLength) * 256) ∧
      ((asking 0 (fillFrame 255 1) (w.modRecord 61 (BufferRecord.setFill (.named 5)))).record 61).fill ≠ .noJob ∧
      (asking 0 (fillFrame 255 1) (w.setEngine loaded.engine)).engine.jobs.length = 8 := by decide +kernel

theorem test_witness_FillRequestsSubmitJobs_refill :
    let s := asking 0 (frame 0x0C [15, 1, 2, 3, 4]) (latest .invalid)
    let f := frame 0x0C [15, 1, 2, 3, 4]
    s.Executes 0 f 999990 ∧ s.InSession 0 f ∧ s.engine.jobs.length < 8 ∧ f.request = some .refillFallback ∧
      f.field 0 1 = (15 : StreamId).val ∧ s.stream 15 = some (stream .latest [62] [63] [member 4, member 5]) ∧
      s.fallbackOf 15 = some 61 ∧ (s.record 61).use = .fallback (region 61) PortSet.empty .invalid ∧
      (s.record 61).fill = .noJob := by decide +kernel

theorem test_witness_FillRequestsSubmitJobs_refill_refused :
    let f := frame 0x0C [15, 1, 2, 3, 4]
    let st := stream .latest [62] [63] [member 4, member 5]
    let s := latest .invalid
    let held := s.modRecord 61 (BufferRecord.mapHold fun x => x.add 5)
    let named := s.modRecord 61 (BufferRecord.setFill (.named 5))
    let full := s.setEngine loaded.engine
    (∀ x ∈ [s, held, named, full], (asking 0 f x).Executes 0 f 999990 ∧ (asking 0 f x).InSession 0 f ∧
      f.request = some .refillFallback ∧ f.field 0 1 = (15 : StreamId).val ∧ x.stream 15 = some st ∧
      x.fallbackOf 15 = some 61) ∧
      st.phase = .opened ∧ st.producer = 0 ∧ ({ st with producer := 5 } : Stream).producer ≠ 0 ∧
      (writing .latest []).fallbackOf 15 = none ∧
      (held.record 61).use = .fallback (region 61) (ports [5]) .invalid ∧ ports [5] ≠ PortSet.empty ∧
      ((named.record 61).use = .fallback (region 61) PortSet.empty .invalid ∧ (named.record 61).fill ≠ .noJob) ∧
      ((full.record 61).use = .fallback (region 61) PortSet.empty .invalid ∧ (full.record 61).fill = .noJob ∧
        full.engine.jobs.length = 8) := by decide +kernel

/-! ### Consuming -/

/-- P5 asks to read S15. -/
def reading (s : State) : State := asking 5 (frame 0x0D [15]) s

/-- What the two ACQUIRE_READ statements ask of the request. -/
def ReadReady (s : State) (st : Stream) : Prop :=
  s.Executes 5 (frame 0x0D [15]) 999990 ∧ s.InSession 5 (frame 0x0D [15]) ∧
    (frame 0x0D [15]).request = some .acquireRead ∧ (frame 0x0D [15]).field 0 1 = (15 : StreamId).val ∧
    s.stream 15 = some st ∧ st.phase = .opened ∧ st.consumer 5 = some (member 5) ∧
    (member 5).readHolds ≠ (member 5).holdLimit ∧ s.LeaseRoom st.readLease

theorem test_witness_AcquireReadGivesTheOldestOwed :
    (ReadReady (reading exhausted) (stream .queue [61, 62] [] [member 4, member 5]) ∧
      ((reading exhausted).record 61).use = .frame (region 61) (.ready stamp (some (ports [5])) (ports [4])) ∧
      (ports [5]).has 5 = true) ∧
      ReadReady (reading (writing .queue [member 5])) (stream .queue [] [63] [member 5]) := by
  simp only [ReadReady]
  decide +kernel

theorem test_witness_AcquireReadGivesTheOldestOwed_refused :
    let f := frame 0x0D [15]
    let limit := stream .queue [61] [62] [{ member 5 with readHolds := 2 }]
    let l := { stream .queue [61] [62] [member 5] with readLease := 1 }
    let owedTo5 := fr 61 (.ready stamp (some (ports [5])) PortSet.empty)
    (∀ st ∈ [stream .queue [61] [62] [member 4], limit, l],
      let s := (reading (live st owedTo5 (fr 62 .free) (fr 63 .free))).setLeases (List.replicate 128 due)
      s.Executes 5 f 999990 ∧ s.InSession 5 f ∧ f.request = some .acquireRead ∧
        f.field 0 1 = (15 : StreamId).val ∧ s.stream 15 = some st ∧ st.phase = .opened ∧ s.leases.length = 128 ∧
        (s.record 61).use = owedTo5) ∧
      (∀ c ∈ [member 4], c.port ≠ 5) ∧
      (limit.consumer 5 = some { member 5 with readHolds := 2 } ∧ ({ member 5 with readHolds := 2 }).holdLimit = 2) ∧
      (l.consumer 5 = some (member 5) ∧ (member 5).readHolds ≠ (member 5).holdLimit ∧ l.ready = [] ++ 61 :: [] ∧
        (ports [5]).has 5 = true ∧ l.readLease ≠ 0) := by decide +kernel

/-- S15, LATEST, with a consumer entry of P5 as given. -/
def latestFor (c : Consumer) : State := live (stream .latest [62] [63] [c]) (fr 61 .free)
  (fr 62 (.ready stamp none PortSet.empty)) (fr 63 .free)

theorem test_witness_AcquireReadGivesTheLatest_fallback :
    ReadReady (reading ((latest .valid).setTracker 15 { locked with state := .stalled }))
      (stream .latest [62] [63] [member 4, member 5]) ∧
      (latest .valid).fallbackOf 15 = some 61 ∧
      ((latest .valid).record 61).use = .fallback (region 61) PortSet.empty .valid ∧
      (((latest .valid).setTracker 15 { locked with state := .stalled }).tracker 15).state = .stalled := by
  simp only [ReadReady]
  decide +kernel

theorem test_witness_AcquireReadGivesTheLatest_frame :
    ReadReady (reading (latest .invalid)) (stream .latest [62] [63] [member 4, member 5]) ∧
      (latest .invalid).fallbackOf 15 = some 61 ∧ ((latest .invalid).record 61).condition ≠ some .valid ∧
      ((latest .invalid).record 62).use = .frame (region 62) (.ready stamp none PortSet.empty) ∧
      (member 5).lastDelivered ≠ some stamp.sequence ∧
      ReadReady (reading (writing .latest [member 5])) (stream .latest [] [63] [member 5]) ∧
      (writing .latest [member 5]).fallbackOf 15 = none := by
  simp only [ReadReady]
  decide +kernel

theorem test_witness_AcquireReadGivesTheLatest_repeat :
    let e := { member 5 with lastDelivered := some 9 }
    let s := reading (latestFor e)
    s.Executes 5 (frame 0x0D [15]) 999990 ∧ s.InSession 5 (frame 0x0D [15]) ∧
      s.stream 15 = some (stream .latest [62] [63] [e]) ∧ (stream .latest [62] [63] [e]).consumer 5 = some e ∧
      e.readHolds ≠ e.holdLimit ∧ s.fallbackOf 15 = none ∧ e.lastDelivered = some stamp.sequence ∧
      e.repeatAllowed = false ∧ { e with repeatAllowed := true }.repeatAllowed = true := by decide +kernel

theorem test_witness_AcquireReadGivesTheLatest_no_lease :
    let f := frame 0x0D [15]
    let l := { stream .latest [62] [63] [member 5] with readLease := 1 }
    ∀ c ∈ [FallbackCondition.valid, .invalid],
      let s := (reading (((latest c).setStream 15 (some l)).setTracker 15 { locked with state := .stalled })).setLeases
        (List.replicate 128 due)
      s.Executes 5 f 999990 ∧ s.InSession 5 f ∧ s.stream 15 = some l ∧ l.consumer 5 = some (member 5) ∧
        l.readLease ≠ 0 ∧ s.leases.length = 128 ∧ (s.tracker 15).state = .stalled ∧ s.fallbackOf 15 = some 61 ∧
        (s.record 61).use = .fallback (region 61) PortSet.empty c ∧ l.ready = [62] ∧
        (s.record 62).use = .frame (region 62) (.ready stamp none PortSet.empty) := by decide +kernel

theorem test_witness_ReleaseEndsTheHold :
    let f := frame 0x0E [0xBE, 0xFF]
    let s := asking 5 f (live (stream .queue [] [61] [{ member 5 with readHolds := 1 }]) (fr 61 .free)
      (fr 62 (.draining stamp (ports [5]))) (fr 63 .settling))
    s.Executes 5 f 999990 ∧ s.InSession 5 f ∧ f.request = some .release ∧
      f.handle = formHandle .read 62 (s.record 62).generation ∧ (s.record 62).heldBy 5 = true ∧
      (s.record 62).names 15 = true ∧
      s.stream 15 = some (stream .queue [] [61] [{ member 5 with readHolds := 1 }]) ∧
      (stream .queue [] [61] [{ member 5 with readHolds := 1 }]).phase ≠ .preparing := by decide +kernel

theorem test_witness_RenewMovesTheDeadline :
    let f := frame 0x0F [0x3D, 0xFF]
    let e : LeaseEntry := { due with handle := 0x3DFF, port := 0, index := 61, kind := .write, marked := true }
    let s := (asking 0 f (writing .queue [])).setLeases [due, e]
    s.Executes 0 f 999990 ∧ s.InSession 0 f ∧ f.request = some .renew ∧
      f.handle = formHandle .write 61 (s.record 61).generation ∧ (s.record 61).assignment = some (region 61) ∧
      s.stream (region 61).stream = some (stream .queue [] [63] []) ∧
      (stream .queue [] [63] []).phase ≠ .preparing ∧ (s.record 61).writer = some 0 ∧
      (stream .queue [] [63] []).writeLease ≠ 0 ∧ s.leases = [due] ++ e :: [] ∧
      (∀ x ∈ [due] ++ [], ¬(x.handle = f.handle ∧ x.port = 0)) ∧ e.handle = f.handle ∧ e.port = 0 := by
  decide +kernel

theorem test_witness_RenewMovesTheDeadline_without_lease :
    let f := frame 0x0F [0xBE, 0xFF]
    let st := stream .queue [62] [61] [member 4]
    let s := asking 5 f (live st (fr 61 .free) (fr 62 (.ready stamp (some PortSet.empty) (ports [5]))) (fr 63 .free))
    s.Executes 5 f 999990 ∧ s.InSession 5 f ∧ f.request = some .renew ∧
      f.handle = formHandle .read 62 (s.record 62).generation ∧ (s.record 62).assignment = some (region 62) ∧
      s.stream (region 62).stream = some st ∧ st.phase ≠ .preparing ∧ (s.record 62).heldBy 5 = true ∧
      st.readLease = 0 := by decide +kernel

/-- The hypotheses of the handle step for P5 and a request of this code on S15. -/
def HandleReady (s : State) (code : Byte) (h : List Byte) (r : Request) (kind : HandleKind) (i : RecordId)
    (g : BitVec 8) : Prop :=
  s.Executes 5 (frame code h) 999990 ∧ s.InSession 5 (frame code h) ∧ (frame code h).request = some r ∧
    parseHandle (frame code h).handle = some (kind, i, g) ∧ (s.record i).assignment = some (region i.val) ∧
    s.stream (region i.val).stream = some (stream .queue [62] [61] [member 4, member 5])

theorem test_witness_HandlesAreFormedAndJudged :
    let e := asking 5 (frame 0x0E [0xBE, 0xFE]) (queued.modPort 5 fun q => { q with expired := [0xBEFE] })
    let w := asking 5 (frame 0x09 [0xBE, 0xFF]) (queued.modRecord 62 (BufferRecord.mapHold fun x => x.add 5))
    (0x4000 : BitVec 16).getLsbD 14 = true ∧
      (HandleReady e 0x0E [0xBE, 0xFE] .release .read 62 0xFE ∧ (e.record 62).generation ≠ 0xFE ∧
        (frame 0x0E [0xBE, 0xFE]).handle ∈ (e.port 5).expired) ∧
      (HandleReady (asking 5 (frame 0x0A [0x3D, 0xFF]) queued) 0x0A [0x3D, 0xFF] .discard .write 61 0xFF ∧
        (queued.record 61).writer ≠ some 5 ∧ (frame 0x0A [0x3D, 0xFF]).handle ∉ (queued.port 5).expired) ∧
      (HandleReady w 0x09 [0xBE, 0xFF] .publish .read 62 0xFF ∧ (w.record 62).generation = 0xFF ∧
        (w.record 62).heldBy 5 = true ∧ HandleKind.read ≠ .write) ∧
      (stream .queue [62] [61] [member 4, member 5]).phase = .opened := by
  simp only [HandleReady]
  decide +kernel

/-! ### Queries and reports -/

theorem test_witness_QueriesChangeNothing :
    (∀ f ∈ [frame 0x12 [], frame 0x11 [63], frame 0x11 [64], frame 0x10 [15], frame 0x10 [16]],
      (asking 5 f queued).Executes 5 f 999990 ∧ (asking 5 f queued).InSession 5 f) ∧
      (frame 0x12 []).request = some .queryDevice ∧
      ((frame 0x11 [63]).request = some .queryBuffer ∧ (frame 0x11 [63]).field 0 1 = (63 : RecordId).val ∧
        63 < (frame 0x11 [64]).field 0 1) ∧
      ((frame 0x10 [15]).request = some .queryStream ∧ (frame 0x10 [15]).field 0 1 = (15 : StreamId).val ∧
        queued.stream 15 = some (stream .queue [62] [61] [member 4, member 5]) ∧
        15 < (frame 0x10 [16]).field 0 1 ∧ (frame 0x10 [14]).field 0 1 = (14 : StreamId).val ∧
        queued.stream 14 = none) := by decide +kernel

theorem test_witness_QueryBufferSpellsTheRecord :
    device.record 63 = { generation := 0, fill := .noJob, use := .unassigned } ∧
      (∀ fs ∈ [FrameState.free, .writing 5, .ready stamp (some (ports [4, 5])) PortSet.empty,
          .ready stamp none (ports [5]), .draining stamp (ports [5]), .settling],
        ∀ x ∈ [FillRef.noJob, .named 5, .cancelling 255],
        ((live (stream .queue [] [] []) (fr 61 fs) .unassigned .unassigned).modRecord 61
            (BufferRecord.setFill x)).record 61 =
          { generation := 255, fill := x, use := .frame (region 61) fs }) ∧
      ∀ c ∈ [FallbackCondition.filling, .valid, .invalid],
        (latest c).record 61 = { generation := 255, fill := .noJob, use := .fallback (region 61) PortSet.empty c } := by
  decide +kernel

theorem test_witness_FrameFillReportIsApplied :
    let s := (writing .queue []).modRecord 61 (BufferRecord.setFill (.named 5))
    let v := (queued.modRecord 63 (BufferRecord.setFill (.cancelling 5)))
    (∀ o ∈ [FillOutcome.done, .failed .timeout 0xFFFFFF],
      (busy (.fillReport (report o)) s).core = some { item := .fillReport (report o), takenAt := 999990 }) ∧
      (s.record 61).use = .frame (region 61) (.writing 0) ∧ (s.record 61).fill = .named (report .done).tag ∧
      (report .done).kind = .frameFill ∧ s.stream 15 = some (stream .queue [] [63] []) ∧
      (v.record 63).use = .frame (region 63) .settling ∧ (v.record 63).fill = .cancelling 5 ∧
      v.stream 15 = some (stream .queue [62] [61] [member 4, member 5]) ∧
      ((writing .queue []).record 61).fill.namesTag 5 = false := by decide +kernel

/-- A fallback fill of S15 in a given state of the stream. -/
def refilled (x : StreamPhase) : State :=
  (live { stream .latest [] [63] [] with phase := x } (.fallback (region 61) PortSet.empty .filling) .unassigned
    (fr 63 .free)).modRecord 61 (BufferRecord.setFill (.named 5))

theorem test_witness_FallbackFillReportIsApplied :
    let r : FillReport := { report .done with kind := .fallbackFill }
    let g : FillReport := { r with outcome := .failed .error 0xFFFFFF }
    ∀ x ∈ [StreamPhase.preparing, .opened, .orphaned, .closing .departure],
      (busy (.fillReport r) (refilled x)).core = some { item := .fillReport r, takenAt := 999990 } ∧
        (busy (.fillReport g) (refilled x)).core = some { item := .fillReport g, takenAt := 999990 } ∧
        ((refilled x).record r.index).use = .fallback (region 61) PortSet.empty .filling ∧
        r.kind = .fallbackFill ∧ ((refilled x).record r.index).fill.namesTag r.tag = true ∧
        (refilled x).stream 15 = some { stream .latest [] [63] [] with phase := x } := by decide +kernel

theorem test_witness_ExpiryReclaimsAndRecords :
    let e : LeaseEntry := { due with handle := 0x3DFF, port := 0, index := 61, kind := .write }
    ((busy (.leaseExpiry e) (writing .queue [])).core = some { item := .leaseExpiry e, takenAt := 999990 } ∧
      ((writing .queue []).record e.index).assignment = some (region 61) ∧ e.kind = .write ∧
      ((writing .queue []).record e.index).writer = some e.port) ∧
      ((busy (.leaseExpiry due) queued).core = some { item := .leaseExpiry due, takenAt := 999990 } ∧
        (queued.record due.index).assignment = some (region 62) ∧ due.kind = .read) := by decide +kernel

theorem test_witness_CadenceReportIsSent :
    (busy (.cadenceReport 15 15 (some .lost) none) queued).core =
        some { item := .cadenceReport 15 15 (some .lost) none, takenAt := 999990 } ∧
      queued.stream 15 = some (stream .queue [62] [61] [member 4, member 5]) := by decide

/-! ### Timer, monitor, engine, notices -/

theorem test_witness_LeaseTimerMarksAndPlacesEntries :
    let s := device.setLeases [due]
    let v := device.setLeases [{ due with deadline := 1000001 }]
    (s.leases = due :: [] ∧ (∀ x ∈ s.leases, x.marked = false) ∧
      (s.timebase - due.deadline).toNat < 2 ^ 31) ∧
      ((∀ x ∈ v.leases, x.marked = false) ∧
        2 ^ 31 ≤ (v.timebase - ({ due with deadline := 1000001 } : LeaseEntry).deadline).toNat) ∧
      device.leases = [] ∧ (∃ x ∈ (device.setLeases [{ due with marked := true }]).leases, x.marked = true) := by
  decide

theorem test_witness_WatchDeadlineCountsAMiss :
    let s := { device with timebase := 1101346 }.setTracker 15 locked
    let v := { device with timebase := 1101345 }.setTracker 15 locked
    (s.tracker 15 = locked ∧ locked.state = .locked ∧ locked.watch = some 1101346 ∧ locked.interval = some 20044 ∧
      (s.timebase - 1101346).toNat < 2 ^ 31 ∧ locked.missCounter + 1 < locked.params.stallCount) ∧
      (({ locked with missCounter := 2 } : Tracker).params.stallCount ≤ 2 + 1) ∧
      2 ^ 31 ≤ (v.timebase - 1101346).toNat := by decide

/-- An ACQUIRING tracker whose last publication was at 1,000,000. -/
def learning (r : Option Nat) (count : Nat) : Tracker :=
  { locked with state := .acquiring, interval := r, lastPublish := some 1000000, lockCounter := count
                watch := none, change := none }

theorem test_witness_PublicationMovesTheTracker :
    (Tracker.cleared CadenceParams.lowest).params.enable = false ∧
      (∀ t ∈ [{ locked with state := .idle }, { locked with state := .stalled }, locked, learning none 0],
        t.params.enable = true) ∧
      ((learning (some 20000) 2).lastPublish = some 1000000 ∧ 0 < (learning none 0).params.lockCount) ∧
      (((1000499 : Time) - 1000000).toNat < 500 ∧ 500 ≤ ((1000500 : Time) - 1000000).toNat ∧
        ((3000000 : Time) - 1000000).toNat ≤ 2000000 ∧ 2000000 < ((3000001 : Time) - 1000000).toNat) ∧
      (4 * 20000 / 64 < max (21251 - 20000) (20000 - 21251) ∧
        max (21250 - 20000) (20000 - 21250) ≤ 4 * 20000 / 64) ∧
      ((learning (some 20000) 1).lockCounter + 1 ≠ locked.params.lockCount ∧
        (learning (some 20000) 2).lockCounter + 1 = locked.params.lockCount) ∧
      (locked.state = .locked ∧ locked.interval = some 20044 ∧
        locked.unlockCounter + 1 < locked.params.unlockCount ∧
        locked.params.unlockCount ≤ ({ locked with unlockCounter := 1 } : Tracker).unlockCounter + 1) := by
  decide

theorem test_witness_BurstEndDecidesTheJob :
    let s := device.setEngine filling
    (s.engine.state = .running burst ∧ s.engine.jobs = job 5 61 :: [] ∧ burst.tag = 9 ∧ burst.tag ≠ 10) ∧
      2 ^ 31 ≤ ((1000003 : Time) - (burst.issuedAt + 64)).toNat ∧
      ((1000004 : Time) - (burst.issuedAt + 64)).toNat < 2 ^ 31 ∧
      ((job 5 61).cancel = false ∧ ({ job 5 61 with cancel := true } : FillJob).cancel = true) ∧
      (job 5 61).next + 256 = (job 5 61).stop ∧
      ({ job 5 61 with next := 0x400100 } : FillJob).next + 256 ≠ (job 5 61).stop := by decide

theorem test_witness_JobsStartFromQuietAndStandby :
    let s := { device with engine := FillEngine.reset, timebase := 1000 }
    (s.engine.state = .quiet ∧ s.resetAsserted = false ∧ (s.timebase - 1000).toNat < 2 ^ 31 ∧
      s.engine.jobs = []) ∧
      ({ FillEngine.reset with jobs := [job 5 61] } : FillEngine).jobs = job 5 61 :: [] ∧
      2 ^ 31 ≤ ((999 : Time) - 1000).toNat ∧
      (filling.jobs.length < 8 ∧ filling.state ≠ .standby) ∧
      (device.engine.jobs.length < 8 ∧ device.engine.state = .standby ∧ device.engine.jobs = []) := by decide

theorem test_witness_AcceptedBurstSendsThePattern :
    (filling.state = .running burst ∧ filling.jobs = job 5 61 :: [] ∧ burst.accepted = false) ∧
      ({ burst with accepted := true } : Burst).accepted = true := by decide

theorem test_witness_CancelAnswersByThePlace :
    (filling.jobs = job 5 61 :: [] ∧ filling.state = .running burst) ∧
      ({ filling with state := .reporting (report .done) } : FillEngine).state = .reporting (report .done) ∧
      (6 : BitVec 8) ≠ (job 5 61).tag ∧ ({ filling with state := .quiet } : FillEngine).state = .quiet := by decide

/-- P5 with this many FRAME_DROPPED records, one for each of so many streams, and other records behind. -/
def crowd (n : Nat) (behind : List Notice) : AgentPort :=
  { agent with
    notices := List.replicate n
      { kind := .frameDropped, stream := some 3, count := 1, time := 0, detail := some 1 } ++ behind }

/-- An OVERFLOW record at its highest count. -/
def overflowing : Notice :=
  { kind := .overflow, stream := none, count := 255, time := 0, detail := some 4294967295 }

/-- A FRAME_LATE record of S15. -/
def lateNotice : Notice :=
  { kind := .frameLate, stream := some 15, count := 255, time := 0, detail := some 4294967295 }

theorem test_witness_NoticesCoalesceAppendOrOverflow :
    (({ agent with state := .resetting } : AgentPort).state = .resetting ∧
      ({ agent with mask := 0 } : AgentPort).mask.getLsbD NoticeKind.frameLate.code.toNat = false) ∧
      (agent.state ≠ .resetting ∧ agent.mask.getLsbD NoticeKind.producerResumed.code.toNat = true) ∧
      ((crowd 1 [lateNotice]).notices = (crowd 1 []).notices ++ lateNotice :: [] ∧
        (∀ x ∈ (crowd 1 []).notices, ¬(x.kind = .frameLate ∧ x.stream = some 15)) ∧
        lateNotice.kind = .frameLate ∧ lateNotice.stream = some 15) ∧
      ((∀ x ∈ (crowd 31 [overflowing]).notices, ¬(x.kind = .frameLate ∧ x.stream = some 15)) ∧
        ((crowd 30 []).notices.countP fun x => x.kind ≠ .overflow) < 31 ∧
        31 ≤ ((crowd 31 []).notices.countP fun x => x.kind ≠ .overflow) ∧
        (∀ x ∈ (crowd 31 []).notices, x.kind ≠ .overflow) ∧
        (crowd 31 [overflowing]).notices = (crowd 31 []).notices ++ overflowing :: [] ∧
        overflowing.kind = .overflow) := by decide +kernel

/-- A NOTICE under way that tallied `tally` occurrences of the head. -/
def transferring (tally : Nat) (q : AgentPort) : AgentPort :=
  { q with transaction := some (.notice [] true tally 4294967295) }

theorem test_witness_NoticesCoalesceAppendOrOverflow_transfer :
    ((transferring 255 (crowd 0 [lateNotice])).notices = [] ++ lateNotice :: [] ∧
      (transferring 255 (crowd 0 [lateNotice])).transaction = some (.notice [] true 255 4294967295)) ∧
      ({ crowd 0 [] with notices := overflowing :: (crowd 31 []).notices } : AgentPort).notices =
        [] ++ overflowing :: (crowd 31 []).notices := by decide +kernel

/-- R188: an occurrence that coalesces into the head in transfer raises the tally and its sum of late counts. -/
theorem test_tally_of_the_head_in_transfer :
    let q := { crowd 0 [lateNotice] with transaction := some (.notice [] true 1 7) }
    (q.enqueue .frameLate 15 (some 3) 0).transaction = some (.notice [] true 2 10) := by decide +kernel

/-! ### Invariants: a state other than that of reset that meets them, and its next step -/

/-- A device at work: S15 with a frame READY, a lease, a job, a notice and a request of P0 under execution. -/
def working : State :=
  ((acquiring queued).setLeases [due]).setEngine { filling with state := .running { burst with address := 0x400200 } }

theorem test_witness_invariants_step : ∃ u, step (working.setPending [.acquireWrite 0]) = .next u := ⟨_, rfl⟩

theorem test_witness_StepsKeepCapacities : (working.setPending [.acquireWrite 0]).WithinCapacities := by
  simp only [State.WithinCapacities]
  decide +kernel

theorem test_witness_StepsKeepRegionsDisjoint : (working.setPending [.acquireWrite 0]).RegionsDisjoint := by
  have named : ∀ i x, (working.record i).region = some x → x = ⟨i.val * 65536, 65536⟩ := by
    have h : ∀ i, (working.record i).region = none ∨ (working.record i).region = some ⟨i.val * 65536, 65536⟩ := by
      decide +kernel
    intro i x hx
    rcases h i with h | h <;> rw [h] at hx <;> cases hx
    rfl
  intro i j hij x y hx hy
  rw [named i x hx, named j y hy]
  have := Fin.val_ne_of_ne hij
  simp only [Region.overlaps, Bool.and_eq_false_iff, decide_eq_false_iff_not]
  omega

theorem test_witness_StepsKeepTheEngineCoherent : (working.setPending [.acquireWrite 0]).engine.Coherent :=
  ⟨by decide, by decide, job 5 61, [], rfl, rfl⟩

theorem test_witness_StepsKeepSlotsExclusive : (working.setPending [.acquireWrite 0]).SlotsExclusive := by
  simp only [State.SlotsExclusive]
  decide +kernel

theorem test_witness_StepsKeepSessionsLegal : (working.setPending [.acquireWrite 0]).SessionsLegal := by
  simp only [State.SessionsLegal]
  decide +kernel

theorem test_witness_StepsLeaveTheArbiterSettled :
    (working.setPending [.acquireWrite 0]).ArbiterSettled ∧ device.ArbiterSettled := by
  simp only [State.ArbiterSettled]
  decide +kernel

end Sys2Proof.Tests
end

section
/-! PROOF. The refusals of OPEN_STREAM in the order of R28: what the search for a failing descriptor and the search
for a conflict answer, then one lemma per check, each under the checks before it. -/

namespace Sys2Proof.Machine

/-! ## A request whose body is known -/

/-- A request command ends with what the body of its kind answers. -/
theorem State.runRequest_of_body {s u : State} {p : Port} {f : RequestFrame} {t : Time} {kind : Option Request}
    {body : RequestFrame → Time → State → State × Reply} {r : Result} {bytes : List Byte} (h : s.Executes p f t)
    (hk : f.request = kind) (hb : body f t s = (u, { result := r, payload := bytes })) :
    s.runRequest p kind body = (State.respond p f r bytes u).arbitrate := by
  rw [State.runRequest_of_executes body h hk, hb]

theorem exec_openStream_of_body {s u : State} {p : Port} {f : RequestFrame} {t : Time} {r : Result}
    {bytes : List Byte} (h : s.Executes p f t) (hk : f.request = some .openStream)
    (hb : openStreamRequest p f t s = (u, { result := r, payload := bytes })) :
    exec (.openStream p) s = .next (State.respond p f r bytes u).arbitrate :=
  congrArg Host.Outcome.next (State.runRequest_of_body h hk hb)

/-! ## The first descriptor that fails -/

/-- The search for a descriptor out of bounds answers the number of the first (R17). -/
theorem findIdx?_first_outOfBounds {front : List Region} {d : Region} (back : List Region)
    (hfront : ∀ x ∈ front, x.inBounds = true) (hd : d.inBounds = false) :
    ((front ++ d :: back).findIdx? fun x => !x.inBounds) = some front.length := by
  have hnone : (front.findIdx? fun x => !x.inBounds) = none := by
    simpa [List.findIdx?_eq_none_iff] using hfront
  simp [List.findIdx?_append, hnone, List.findIdx?_cons, hd]

theorem findIdx?_all_inBounds {ds : List Region} (h : ∀ d ∈ ds, d.inBounds = true) :
    (ds.findIdx? fun x => !x.inBounds) = none := by
  simpa [List.findIdx?_eq_none_iff] using h

/-- The search for a conflict answers the number of the first descriptor that overlaps a taken region or a
descriptor before it (R18). -/
theorem firstConflict_first {taken front : List Region} {d : Region} (back : List Region) (j : Nat)
    (hfront : ∀ a x b, front = a ++ x :: b → ∀ y, y ∈ taken ∨ y ∈ a → x.overlaps y = false)
    (hd : ∃ y, (y ∈ taken ∨ y ∈ front) ∧ d.overlaps y = true) :
    firstConflict taken (front ++ d :: back) j = some (j + front.length) := by
  induction front generalizing taken j with
  | nil =>
    have hany : taken.any d.overlaps = true := by simpa [List.any_eq_true] using hd
    simp [firstConflict, hany]
  | cons e front ih =>
    have hclear : taken.any e.overlaps = false := by
      simpa [List.any_eq_false] using fun y hy => hfront [] e front rfl y (.inl hy)
    have hrest := ih (taken := e :: taken) (j + 1)
      (fun a x b hab y hy => hfront (e :: a) x b (by rw [hab]; rfl) y (by
        simpa [or_left_comm, or_assoc] using hy))
      (by simpa [or_left_comm, or_assoc] using hd)
    rw [List.cons_append, firstConflict, hclear, if_neg Bool.false_ne_true, hrest, List.length_cons]
    congr 1
    omega

/-! ## The checks in order -/

theorem answer_checkDescriptor (j : Option Nat) (r : Result) (s : State) (k : Unit → Checked (State × Reply)) :
    answer (checkDescriptor j r s >>= k) =
      j.elim (answer (k ())) fun n => (s, { result := r, payload := [BitVec.ofNat 8 n] }) := by
  cases j <;> rfl

/-- Where a context is CLOSED the search for the lowest one finds one (R29). -/
theorem State.find_closed (s : State) (h : ∃ k, s.stream k = none) :
    ∃ k, (allStreams.find? fun k => (s.stream k).isNone) = some k := by
  obtain ⟨k, hk⟩ := h
  refine Option.isSome_iff_exists.1 (List.find?_isSome.2 ⟨k, List.mem_finRange k, ?_⟩)
  simp [hk]

section
variable {s : State} {p : Port} {f : RequestFrame} {t : Time}

theorem openStreamRequest_badParameter (hs : s.InSession p f) (h : f.parametersInRange = false) :
    openStreamRequest p f t s = (s, .refuse .badParameter) := by
  simp [openStreamRequest, checkSession_of_inSession hs, answer_check, h]

theorem openStreamRequest_badDescriptor (hs : s.InSession p f) (hr : f.parametersInRange = true) {j : Nat}
    (h : (f.descriptors.findIdx? fun d => !d.inBounds) = some j) :
    openStreamRequest p f t s = (s, { result := .badDescriptor, payload := [BitVec.ofNat 8 j] }) := by
  simp [openStreamRequest, checkSession_of_inSession hs, answer_check, answer_checkDescriptor, hr, h]

theorem openStreamRequest_regionConflict (hs : s.InSession p f) (hr : f.parametersInRange = true)
    (hb : ∀ d ∈ f.descriptors, d.inBounds = true) {j : Nat}
    (h : firstConflict s.regionMap f.descriptors 0 = some j) :
    openStreamRequest p f t s = (s, { result := .regionConflict, payload := [BitVec.ofNat 8 j] }) := by
  simp [openStreamRequest, checkSession_of_inSession hs, answer_check, answer_checkDescriptor, hr,
    findIdx?_all_inBounds hb, h]

/-! The checks against the tables, of a request whose parameters and descriptors pass. -/

variable (hs : s.InSession p f) (hr : f.parametersInRange = true) (hb : ∀ d ∈ f.descriptors, d.inBounds = true)
  (hc : firstConflict s.regionMap f.descriptors 0 = none)
include hs hr hb hc

theorem openStreamRequest_roleLimit (h : 4 ≤ s.producerCount p) :
    openStreamRequest p f t s = (s, .refuse .roleLimit) := by
  simp [openStreamRequest, checkSession_of_inSession hs, answer_check, answer_checkDescriptor, hr,
    findIdx?_all_inBounds hb, hc, Nat.not_lt.2 h]

theorem openStreamRequest_noStream (hp : s.producerCount p < 4) (h : ∀ k, s.stream k ≠ none) :
    openStreamRequest p f t s = (s, .refuse .noStream) := by
  have hfind : (allStreams.find? fun k => (s.stream k).isNone) = none := by
    simpa [List.find?_eq_none] using fun k _ => h k
  simp [openStreamRequest, checkSession_of_inSession hs, answer_check, answer_checkDescriptor, hr,
    findIdx?_all_inBounds hb, hc, hp, hfind]

theorem openStreamRequest_noRecords (hp : s.producerCount p < 4) (hk : ∃ k, s.stream k = none)
    (h : s.unassigned.length < f.recordCount) :
    openStreamRequest p f t s = (s, .refuse .noRecords) := by
  obtain ⟨k, hfind⟩ := s.find_closed hk
  simp [openStreamRequest, checkSession_of_inSession hs, answer_check, answer_checkDescriptor, hr,
    findIdx?_all_inBounds hb, hc, hp, hfind, Nat.not_le.2 h]

theorem openStreamRequest_fillQueueFull (hp : s.producerCount p < 4) (hk : ∃ k, s.stream k = none)
    (hn : f.recordCount ≤ s.unassigned.length) (hf : f.hasFallback = true) (h : 8 ≤ s.engine.jobs.length) :
    openStreamRequest p f t s = (s, .refuse .fillQueueFull) := by
  obtain ⟨k, hfind⟩ := s.find_closed hk
  simp [openStreamRequest, checkSession_of_inSession hs, answer_check, answer_checkDescriptor, hr,
    findIdx?_all_inBounds hb, hc, hp, hfind, hn, hf, FillEngine.isFull, h]

end

/-- Settles O19: each refusal of R28 is the answer of the first check that fails. -/
theorem openStreamChecksInOrder : Obligations.OpenStreamChecksInOrder := by
  unfold Obligations.OpenStreamChecksInOrder
  intro s p f t hx hs hk
  refine ⟨?range, fun hr => ⟨?bounds, fun hb => ⟨?conflict, fun hc => ⟨?role, fun hp => ⟨?closed, fun hk' =>
    ⟨?records, ?queue⟩⟩⟩⟩⟩⟩
  case range => exact fun h => exec_openStream_of_body hx hk (openStreamRequest_badParameter hs h)
  case bounds =>
    intro front d back hds hfront hd
    have hfirst := findIdx?_first_outOfBounds back hfront hd
    rw [← hds] at hfirst
    exact exec_openStream_of_body hx hk (openStreamRequest_badDescriptor hs hr hfirst)
  case conflict =>
    intro front d back hds hfront hd
    have hfirst := firstConflict_first back 0 hfront hd
    rw [← hds, Nat.zero_add] at hfirst
    exact exec_openStream_of_body hx hk (openStreamRequest_regionConflict hs hr hb hfirst)
  case role => exact fun h => exec_openStream_of_body hx hk (openStreamRequest_roleLimit hs hr hb hc h)
  case closed => exact fun h => exec_openStream_of_body hx hk (openStreamRequest_noStream hs hr hb hc hp h)
  case records =>
    exact fun h => exec_openStream_of_body hx hk (openStreamRequest_noRecords hs hr hb hc hp hk' h)
  case queue =>
    intro hn hf h
    exact exec_openStream_of_body hx hk (openStreamRequest_fillQueueFull hs hr hb hc hp hk' hn hf h)

end Sys2Proof.Machine
end

section
/-! PROOF. JOIN: the ready records a joining port becomes owed, the state before CONSUMER_JOINED is sent, and the
refusals in the order of R40. -/

namespace Sys2Proof.Machine

/-! ## Start OLDEST (R42) -/

theorem PortSet.add_add (x : PortSet) (p : Port) : (x.add p).add p = x.add p := by
  simp [PortSet.add]

theorem BufferRecord.mapPending_add_twice (r : BufferRecord) (p : Port) :
    (r.mapPending fun x => x.add p).mapPending (fun x => x.add p) = r.mapPending fun x => x.add p := by
  rcases r with ⟨g, fill, _ | ⟨a, fs⟩ | _⟩
  · rfl
  · cases fs with
    | ready m pending hold => cases pending <;> simp [BufferRecord.mapPending, PortSet.add_add]
    | _ => rfl
  · rfl

/-- A change that has no more effect the second time reaches each record of a list once, whatever the list
repeats. -/
theorem State.foldl_modRecord_record (g : BufferRecord → BufferRecord) (hg : ∀ r, g (g r) = g r)
    (l : List RecordId) (s : State) (i : RecordId) :
    (l.foldl (fun s j => s.modRecord j g) s).record i = if i ∈ l then g (s.record i) else s.record i := by
  induction l generalizing s with
  | nil => simp
  | cons j l ih =>
    rw [List.foldl_cons, ih, State.modRecord, State.setRecord_record]
    by_cases hj : j = i
    · subst hj
      simp [hg]
    · simp [hj, Ne.symm hj]

theorem State.foldl_modRecord_frame (g : BufferRecord → BufferRecord) (l : List RecordId) (s : State) :
    l.foldl (fun s j => s.modRecord j g) s =
      { s with records := (l.foldl (fun s j => s.modRecord j g) s).records } := by
  induction l generalizing s with
  | nil => rfl
  | cons j l ih =>
    rw [List.foldl_cons, ih]
    rfl

theorem State.oweReady_record (p : Port) (st : Stream) (s : State) (i : RecordId) :
    (s.oweReady p st).record i =
      if i ∈ st.ready then (s.record i).mapPending (fun x => x.add p) else s.record i :=
  State.foldl_modRecord_record _ (fun r => r.mapPending_add_twice p) st.ready s i

theorem State.oweReady_frame (p : Port) (st : Stream) (s : State) :
    s.oweReady p st = { s with records := (s.oweReady p st).records } :=
  State.foldl_modRecord_frame _ st.ready s

/-! ## The consumer entry (R41, R43) -/

theorem RequestFrame.newConsumer_queue (f : RequestFrame) (p : Port) {st : Stream} (s : State)
    (h : st.policy = .queue) :
    f.newConsumer p st s =
      { port := p, holdLimit := f.field 2 1, repeatAllowed := false, lastDelivered := none, skipped := 0
        readHolds := 0 } := by
  simp [RequestFrame.newConsumer, h]

theorem RequestFrame.newConsumer_latest (f : RequestFrame) (p : Port) {st : Stream} (s : State)
    (h : st.policy = .latest) :
    f.newConsumer p st s =
      { port := p, holdLimit := 1, repeatAllowed := decide (f.field 3 1 = 1)
        lastDelivered :=
          if f.field 1 1 = 0 then (st.ready.head?.bind fun i => (s.record i).stamp).map FrameStamp.sequence else none
        skipped := 0, readHolds := 0 } := by
  simp [RequestFrame.newConsumer, h]

/-- What a JOIN makes of the state before CONSUMER_JOINED is sent: the entry at the tail and, for start OLDEST in a
QUEUE stream, the pending sets. -/
def State.enterConsumer (p : Port) (f : RequestFrame) (k : StreamId) (st : Stream) (s : State) : State :=
  let s' := s.setStream k (some { st with consumers := st.consumers ++ [f.newConsumer p st s] })
  if st.policy = .queue && f.field 1 1 = 1 then s'.oweReady p st else s'

theorem State.joinStream_eq (p : Port) (f : RequestFrame) (k : StreamId) (st : Stream) (s : State) :
    s.joinStream p f k st =
      (s.enterConsumer p f k st).notify st.producer .consumerJoined k (some (BitVec.ofNat 32 p.val)) := rfl

theorem State.enterConsumer_frame (p : Port) (f : RequestFrame) (k : StreamId) (st : Stream) (s : State) :
    s.enterConsumer p f k st =
      { s.setStream k (some { st with consumers := st.consumers ++ [f.newConsumer p st s] }) with
        records := (s.enterConsumer p f k st).records } := by
  unfold State.enterConsumer
  split
  · exact State.oweReady_frame p st _
  · rfl

theorem State.enterConsumer_record (p : Port) (f : RequestFrame) (k : StreamId) (st : Stream) (s : State)
    (i : RecordId) :
    (s.enterConsumer p f k st).record i =
      if st.policy = .queue ∧ f.field 1 1 = 1 ∧ i ∈ st.ready then
        (s.record i).mapPending fun x => x.add p
      else s.record i := by
  by_cases h : st.policy = .queue ∧ f.field 1 1 = 1
  · simp [State.enterConsumer, h.1, h.2, State.oweReady_record]
  · have h' : ¬ (st.policy = .queue ∧ f.field 1 1 = 1 ∧ i ∈ st.ready) := fun ⟨hq, hf, _⟩ => h ⟨hq, hf⟩
    simp [State.enterConsumer, h, h']

/-- A notice changes no record, so the count of R41 can be taken before it. -/
theorem State.owedCount_notify (p q : Port) (kind : NoticeKind) (k : StreamId) (detail : Option (BitVec 32))
    (st : Stream) (s : State) : (s.notify q kind k detail).owedCount p st = s.owedCount p st := rfl

/-! ## The checks in order -/

theorem exec_join_of_body {s u : State} {p : Port} {f : RequestFrame} {t : Time} {r : Result}
    {bytes : List Byte} (h : s.Executes p f t) (hk : f.request = some .join)
    (hb : joinRequest p f t s = (u, { result := r, payload := bytes })) :
    exec (.join p) s = .next (State.respond p f r bytes u).arbitrate :=
  congrArg Host.Outcome.next (State.runRequest_of_body h hk hb)

/-- The parameters of a JOIN in range (R40). -/
abbrev RequestFrame.JoinInRange (f : RequestFrame) : Prop :=
  f.field 1 1 ≤ 1 ∧ 1 ≤ f.field 2 1 ∧ f.field 2 1 ≤ 4 ∧ f.field 3 1 ≤ 1

theorem RequestFrame.joinInRange_iff (f : RequestFrame) :
    (within 0 1 (f.field 1 1) && within 1 4 (f.field 2 1) && within 0 1 (f.field 3 1)) = true ↔ f.JoinInRange := by
  simp [within, and_assoc]

theorem Stream.hasConsumer_iff (st : Stream) (p : Port) : st.hasConsumer p = true ↔ ∃ c ∈ st.consumers, c.port = p := by
  simp [Stream.hasConsumer]

theorem admitsJoin_iff (x : StreamPhase) : admitsJoin x = true ↔ x = .preparing ∨ x = .opened := by
  simp [admitsJoin]

section
variable {s : State} {p : Port} {f : RequestFrame} {t : Time}

theorem joinRequest_badParameter (hs : s.InSession p f) (h : ¬ f.JoinInRange) :
    joinRequest p f t s = (s, .refuse .badParameter) := by
  rw [← f.joinInRange_iff] at h
  simp [joinRequest, checkSession_of_inSession hs, answer_check, h]

theorem joinRequest_unknownStream (hs : s.InSession p f) (hr : f.JoinInRange)
    (h : 15 < f.field 0 1 ∨ ∃ k : StreamId, f.field 0 1 = k.val ∧ s.stream k = none) :
    joinRequest p f t s = (s, .refuse .unknownStream) := by
  rw [← f.joinInRange_iff] at hr
  simp [joinRequest, checkSession_of_inSession hs, answer_check, hr, checkStream_of_unknown admitsJoin h]

variable {k : StreamId} {st : Stream}

theorem joinRequest_streamState (hs : s.InSession p f) (hr : f.JoinInRange) (hk : f.field 0 1 = k.val)
    (hst : s.stream k = some st) (h : ¬ (st.phase = .preparing ∨ st.phase = .opened)) :
    joinRequest p f t s = (s, .refuse .streamState) := by
  rw [← f.joinInRange_iff] at hr
  rw [← admitsJoin_iff] at h
  simp [joinRequest, checkSession_of_inSession hs, answer_check, hr, checkStream_of_live admitsJoin hk hst, h]

/-- The checks of R40 on the tables in a stream that admits a JOIN, and the answer of R41. -/
theorem joinRequest_of_admitted (hs : s.InSession p f) (hr : f.JoinInRange) (hk : f.field 0 1 = k.val)
    (hst : s.stream k = some st) (h : st.phase = .preparing ∨ st.phase = .opened) :
    joinRequest p f t s =
      if st.producer = p then (s, .refuse .roleConflict)
      else if ¬ st.hasConsumer p = false then (s, .refuse .alreadyMember)
      else if ¬ st.consumers.length < st.consumerLimit then (s, .refuse .memberLimit)
      else if ¬ s.consumerCount p < 8 then (s, .refuse .roleLimit)
      else if ¬ (st.policy = .queue ∨ st.consumers.length + 3 ≤ st.frameCount) then (s, .refuse .noCapacity)
      else (s.joinStream p f k st, .ok
        (if st.policy = .queue then
          [0, BitVec.ofNat 8 (f.field 2 1), BitVec.ofNat 8 ((s.joinStream p f k st).owedCount p st)]
        else [1, 1, 0])) := by
  rw [← f.joinInRange_iff] at hr
  rw [← admitsJoin_iff] at h
  simp only [ite_not]
  cases hq : st.policy with
  | queue =>
    simp [joinRequest, checkSession_of_inSession hs, answer_check, hr, checkStream_of_live admitsJoin hk hst, h, hq,
      f.newConsumer_queue p s hq, Policy.code]
  | latest =>
    simp [joinRequest, checkSession_of_inSession hs, answer_check, hr, checkStream_of_live admitsJoin hk hst, h, hq,
      f.newConsumer_latest p s hq, Policy.code]

/-- A JOIN that passes the checks of R40: the entry, then CONSUMER_JOINED, and the answer of R41. -/
theorem joinRequest_accepted (hs : s.InSession p f) (hr : f.JoinInRange) (hk : f.field 0 1 = k.val)
    (hst : s.stream k = some st) (h : st.phase = .preparing ∨ st.phase = .opened) (hc : st.producer ≠ p)
    (hm : st.hasConsumer p = false) (hl : st.consumers.length < st.consumerLimit) (hn : s.consumerCount p < 8)
    (hroom : st.policy = .latest → st.consumers.length + 3 ≤ st.frameCount) :
    joinRequest p f t s =
      ((s.enterConsumer p f k st).notify st.producer .consumerJoined k (some (BitVec.ofNat 32 p.val)), .ok
        (if st.policy = .queue then
          [0, BitVec.ofNat 8 (f.field 2 1), BitVec.ofNat 8 ((s.enterConsumer p f k st).owedCount p st)]
        else [1, 1, 0])) := by
  have hpass : st.policy = .queue ∨ st.consumers.length + 3 ≤ st.frameCount := by
    cases hq : st.policy with
    | queue => exact .inl rfl
    | latest => exact .inr (hroom hq)
  rw [joinRequest_of_admitted hs hr hk hst h, if_neg hc, if_neg (not_not.2 hm), if_neg (not_not.2 hl),
    if_neg (not_not.2 hn), if_neg (not_not.2 hpass), State.joinStream_eq, State.owedCount_notify]

end

/-- Settles O20: the refusals of R40 in order, then the entry of R41 with the starting points of R42 and R43. -/
theorem joinAppendsAConsumer : Obligations.JoinAppendsAConsumer := by
  unfold Obligations.JoinAppendsAConsumer
  intro s p f t inRange hx hs hk hin
  refine ⟨fun h => ?range, fun h hid => ?unknown, fun h k st hid hst => ⟨fun hp ho => ?phase, fun hph => ?admitted⟩⟩
  case range => exact exec_join_of_body hx hk (joinRequest_badParameter hs (mt hin.2 h))
  case unknown => exact exec_join_of_body hx hk (joinRequest_unknownStream hs (hin.1 h) hid)
  case phase =>
    exact exec_join_of_body hx hk (joinRequest_streamState hs (hin.1 h) hid hst (not_or.2 ⟨hp, ho⟩))
  case admitted =>
    have hbody := joinRequest_of_admitted (t := t) hs (hin.1 h) hid hst hph
    refine ⟨fun hc => ?conflict, fun hc hm => ?member, fun hc hm => ?_⟩
    case conflict => exact exec_join_of_body hx hk (hbody.trans (if_pos hc))
    case member =>
      rw [← st.hasConsumer_iff] at hm
      rw [if_neg hc, if_pos (by simp [hm])] at hbody
      exact exec_join_of_body hx hk hbody
    have hm' : st.hasConsumer p = false := by simpa [Stream.hasConsumer] using hm
    rw [if_neg hc, if_neg (not_not.2 hm')] at hbody
    refine ⟨fun hl => ?limit, fun hl hn => ?role, fun hl hn => ?_⟩
    case limit => exact exec_join_of_body hx hk (hbody.trans (if_pos (Nat.not_lt.2 hl)))
    case role =>
      rw [if_neg (not_not.2 hl), if_pos (Nat.not_lt.2 hn)] at hbody
      exact exec_join_of_body hx hk hbody
    rw [if_neg (not_not.2 hl), if_neg (not_not.2 hn)] at hbody
    refine ⟨fun hq hf => ?capacity, fun hroom => ⟨s.enterConsumer p f k st, ?_, ?_, s.enterConsumer_record p f k st⟩⟩
    case capacity =>
      rw [if_pos (by simp [hq]; omega)] at hbody
      exact exec_join_of_body hx hk hbody
    · rw [exec_join_of_body hx hk (joinRequest_accepted hs (hin.1 h) hid hst hph hc hm' hl hn hroom)]
      cases st.policy <;> rfl
    · refine (s.enterConsumer_frame p f k st).trans ?_
      cases hq : st.policy with
      | queue => rw [f.newConsumer_queue p s hq]
      | latest =>
        rw [f.newConsumer_latest p s hq]
        cases st.ready <;> rfl

end Sys2Proof.Machine
end

section
/-! PROOF. The end of a close (R35, R36): which records count as settled, what the completion check decides on, and
what a completed close leaves. -/

namespace Sys2Proof.Machine

/-- Mapping the buffer table maps what each index reads. -/
theorem State.mapRecords_record (s : State) (f : BufferRecord → BufferRecord) (i : RecordId) :
    State.record { s with records := s.records.map f } i = f (s.record i) := by
  simp [State.record]

theorem BufferRecord.names_unassigned {r : BufferRecord} (h : r.use = .unassigned) (k : StreamId) :
    r.names k = false := by
  simp [BufferRecord.names, BufferRecord.assignment, h]

/-- R35, spelled on the role and state of a record of the stream. -/
theorem BufferRecord.settled_iff {r : BufferRecord} {k : StreamId} (h : r.names k = true) :
    r.settled = true ↔
      r.fill = .noJob ∧ ((∃ a, r.use = .frame a .free) ∨ ∃ a c, r.use = .fallback a PortSet.empty c) := by
  cases hu : r.use with
  | unassigned => simp [BufferRecord.names_unassigned hu] at h
  | frame a fs => cases fs <;> simp [BufferRecord.settled, hu]
  | fallback a hold c => simp [BufferRecord.settled, hu, PortSet.isEmpty]

/-- What keeps a close from completing (R35), spelled the same way. -/
theorem BufferRecord.not_settled {r : BufferRecord}
    (h : r.fill ≠ .noJob ∨ (∃ a fs, r.use = .frame a fs ∧ fs ≠ .free) ∨
      ∃ a x c, r.use = .fallback a x c ∧ x ≠ PortSet.empty) : r.settled = false := by
  rcases h with h | ⟨a, fs, hu, hfs⟩ | ⟨a, x, c, hu, hx⟩
  · simp [BufferRecord.settled, h]
  · cases fs <;> simp [BufferRecord.settled, hu] at hfs ⊢
  · simp [BufferRecord.settled, hu, PortSet.isEmpty, hx]

theorem State.closeComplete_iff (s : State) (k : StreamId) :
    s.closeComplete k = true ↔ ∀ i, (s.record i).names k = true → (s.record i).settled = true := by
  simp only [State.closeComplete, allRecords, List.all_eq_true, List.mem_finRange, true_imp_iff]
  exact forall_congr' fun i => by cases (s.record i).names k <;> simp

theorem State.completionCheck_of_closing {s : State} {k : StreamId} {st : Stream} {o : CloseOrigin}
    (hs : s.stream k = some st) (ho : st.phase = .closing o) :
    s.completionCheck k = if s.closeComplete k = true then s.completeClose k st o else s := by
  simp [State.completionCheck, hs, ho]

/-- A completed close (R6, R36): the records of the stream are UNASSIGNED, its context is CLOSED, and STREAM_CLOSED
is the last thing sent. -/
theorem State.completeClose_spec (k : StreamId) (st : Stream) (o : CloseOrigin) (s : State) :
    ∃ u : State,
      s.completeClose k st o =
        (if o = .request ∧ st.producerPresent = true then u.notify st.producer .streamClosed k none else u) ∧
      u = { s.setStream k none with records := u.records } ∧
      ∀ i, u.record i =
        if (s.record i).names k then { s.record i with use := .unassigned } else s.record i := by
  refine ⟨State.setStream k none
    { s with records := s.records.map fun (r : BufferRecord) => if r.names k then r.unassign else r },
    by simp [State.completeClose], rfl, fun i => ?_⟩
  rw [State.setStream_record, State.mapRecords_record]
  rfl

/-- Settles O25: the completion check decides by R35, and a completed close is that of R36. -/
theorem closeCompletesWhenSettled : Obligations.CloseCompletesWhenSettled := by
  unfold Obligations.CloseCompletesWhenSettled
  intro s k st o hs ho
  rw [State.completionCheck_of_closing hs ho]
  constructor
  · intro hall
    have hdone : s.closeComplete k = true :=
      (s.closeComplete_iff k).2 fun i hi => (BufferRecord.settled_iff hi).2 (hall i hi)
    rw [if_pos hdone]
    exact s.completeClose_spec k st o
  · rintro ⟨i, hi, hopen⟩
    have hwait : ¬ s.closeComplete k = true := fun hdone => by
      have := (s.closeComplete_iff k).1 hdone i hi
      rw [BufferRecord.not_settled hopen] at this
      cases this
    rw [if_neg hwait]

end Sys2Proof.Machine
end

section
/-! PROOF. A publication at a cadence tracker (R115 to R120, R123): what the measured interval decides, then one
lemma per case of learning, of the lock and of following a locked rhythm. -/

namespace Sys2Proof.Machine

/-! ## Intervals, bands and watch deadlines (R114) -/

theorem inRange_iff {i : Nat} : inRange i = true ↔ 500 ≤ i ∧ i ≤ 2000000 := by
  simp [inRange]

theorem inRange_eq_false_iff {i : Nat} : inRange i = false ↔ i < 500 ∨ 2000000 < i := by
  rw [← Bool.not_eq_true, inRange_iff]
  omega

/-- One of the two truncated differences is 0, so their sum is the larger. -/
theorem intervalGap_eq_max (i r : Nat) : intervalGap i r = max (i - r) (r - i) := by
  unfold intervalGap
  omega

theorem Tracker.watchFrom_eq (c : CadenceParams) (now : Time) (r : Nat) :
    Tracker.watchFrom c now r = now + BitVec.ofNat 32 (r + c.tolerance * r / 64) := rfl

section
variable {t : Tracker} {now last : Time} {r : Nat}

theorem Tracker.measure_of_lastPublish (h : t.lastPublish = some last) : t.measure now = (now - last).toNat := by
  simp [Tracker.measure, h]

theorem Tracker.inTolerance_iff {i : Nat} (h : t.interval = some r) :
    t.inTolerance i = true ↔
      (500 ≤ i ∧ i ≤ 2000000) ∧ max (i - r) (r - i) ≤ t.params.tolerance * r / 64 := by
  simp [Tracker.inTolerance, h, inRange_iff, intervalGap_eq_max, CadenceParams.band]

theorem Tracker.inTolerance_eq_false_iff {i : Nat} (h : t.interval = some r) :
    t.inTolerance i = false ↔
      i < 500 ∨ 2000000 < i ∨ t.params.tolerance * r / 64 < max (i - r) (r - i) := by
  rw [← Bool.not_eq_true, Tracker.inTolerance_iff h]
  omega

/-! ## What a publication is in each state (R115, R116, R123) -/

theorem Tracker.publication_of_disabled (he : t.params.enable = false) : t.publication now = t := by
  simp [Tracker.publication, he]

theorem Tracker.publication_of_idle (he : t.params.enable = true) (hs : t.state = .idle) :
    t.publication now =
      { t with state := .acquiring, interval := none, lockCounter := 0, lastPublish := some now } := by
  simp [Tracker.publication, he, hs]

theorem Tracker.publication_of_stalled (he : t.params.enable = true) (hs : t.state = .stalled) :
    t.publication now =
      { t with state := .acquiring, lastPublish := some now, lockCounter := 0, unlockCounter := 0
               missCounter := 0, watch := none, change := some .resumed } := by
  simp [Tracker.publication, he, hs]

theorem Tracker.publication_of_acquiring (he : t.params.enable = true) (hs : t.state = .acquiring) :
    t.publication now = (t.learn now).tryLock now := by
  simp [Tracker.publication, he, hs]

theorem Tracker.publication_of_locked (he : t.params.enable = true) (hs : t.state = .locked) :
    t.publication now = t.follow now := by
  simp [Tracker.publication, he, hs]

/-! ## Learning and the lock (R117, R118) -/

theorem Tracker.learn_of_outOfRange (h : inRange (t.measure now) = false) :
    t.learn now = { t with interval := none, lockCounter := 0, lastPublish := some now } := by
  simp [Tracker.learn, h]

/-- The first interval in range becomes R. -/
theorem Tracker.learn_of_noInterval (h : inRange (t.measure now) = true) (hr : t.interval = none) :
    t.learn now =
      { t with interval := some (t.measure now), lockCounter := 0, lastPublish := some now } := by
  simp [Tracker.learn, h, hr]

theorem Tracker.learn_of_outOfTolerance (h : inRange (t.measure now) = true) (hr : t.interval = some r)
    (hout : t.inTolerance (t.measure now) = false) :
    t.learn now =
      { t with interval := some (t.measure now), lockCounter := 0, lastPublish := some now } := by
  simp [Tracker.learn, h, hr, hout]

theorem Tracker.learn_of_inTolerance (h : inRange (t.measure now) = true) (hr : t.interval = some r)
    (hin : t.inTolerance (t.measure now) = true) :
    t.learn now =
      { t with interval := some ((3 * r + t.measure now) / 4), lockCounter := t.lockCounter + 1
               lastPublish := some now } := by
  simp [Tracker.learn, h, hr, hin]

theorem Tracker.tryLock_of_ne (h : t.lockCounter ≠ t.params.lockCount) : t.tryLock now = t :=
  if_neg h

theorem Tracker.tryLock_of_eq (h : t.lockCounter = t.params.lockCount) (hr : t.interval = some r) :
    t.tryLock now =
      { t with state := .locked, unlockCounter := 0, missCounter := 0
               watch := some (now + BitVec.ofNat 32 (r + t.params.tolerance * r / 64))
               change := some .locked } := by
  simp [Tracker.tryLock, h, hr, Tracker.watchFrom_eq]

/-- A tracker whose learning leaves the lock counter short of the lock count stays ACQUIRING. -/
theorem Tracker.publication_of_learn {u : Tracker} (he : t.params.enable = true) (hs : t.state = .acquiring)
    (hu : t.learn now = u) (hc : u.lockCounter ≠ u.params.lockCount) : t.publication now = u := by
  rw [Tracker.publication_of_acquiring he hs, hu, Tracker.tryLock_of_ne hc]

/-! ## Following a locked rhythm (R119, R120) -/

theorem Tracker.follow_of_inTolerance (hr : t.interval = some r)
    (hin : t.inTolerance (t.measure now) = true) :
    t.follow now =
      { t with
        missCounter := 0, unlockCounter := 0, interval := some ((7 * r + t.measure now) / 8)
        lastPublish := some now, watch := some (Tracker.watchFrom t.params now ((7 * r + t.measure now) / 8)) } := by
  simp [Tracker.follow, hr, hin]

theorem Tracker.follow_of_outOfTolerance (hr : t.interval = some r)
    (hout : t.inTolerance (t.measure now) = false) (hc : t.unlockCounter + 1 < t.params.unlockCount) :
    t.follow now =
      { t with
        missCounter := 0, unlockCounter := t.unlockCounter + 1, lastPublish := some now
        watch := some (Tracker.watchFrom t.params now r) } := by
  simp [Tracker.follow, hr, hout, hc]

/-- The out-of-tolerance interval that reaches the unlock count breaks the lock. -/
theorem Tracker.follow_of_lost (hout : t.inTolerance (t.measure now) = false)
    (hc : t.params.unlockCount ≤ t.unlockCounter + 1) :
    t.follow now =
      { t with
        state := .acquiring
        interval := if 500 ≤ t.measure now ∧ t.measure now ≤ 2000000 then some (t.measure now) else none
        lastPublish := some now, lockCounter := 0, unlockCounter := 0, missCounter := 0
        watch := none, change := some .lost } := by
  simp [Tracker.follow, hout, Nat.not_lt.2 hc, inRange_iff]

end

/-- Settles O48: one case per state, and in ACQUIRING and LOCKED one per answer of the range and tolerance tests
and of the lock and unlock counters. -/
theorem publicationMovesTheTracker : Obligations.PublicationMovesTheTracker := by
  unfold Obligations.PublicationMovesTheTracker
  intro tr now
  refine ⟨Tracker.publication_of_disabled, fun he =>
    ⟨Tracker.publication_of_idle he, Tracker.publication_of_stalled he, fun last i hlast hi => ?_⟩⟩
  obtain rfl : tr.measure now = i := (Tracker.measure_of_lastPublish hlast).trans hi.symm
  refine ⟨fun hs hcount => ⟨fun hout => ?_, fun hlow hhigh => ?_⟩, fun r hs hr => ⟨?_, fun hout => ?_⟩⟩
  · exact Tracker.publication_of_learn he hs (Tracker.learn_of_outOfRange (inRange_eq_false_iff.2 hout)) hcount.ne
  · have hrange := inRange_iff.2 ⟨hlow, hhigh⟩
    refine ⟨fun hr => Tracker.publication_of_learn he hs (Tracker.learn_of_noInterval hrange hr) hcount.ne,
      fun r hr => ⟨fun hgap => ?_, fun hgap => ?_⟩⟩
    · have hout := (Tracker.inTolerance_eq_false_iff hr).2 (.inr (.inr hgap))
      exact Tracker.publication_of_learn he hs (Tracker.learn_of_outOfTolerance hrange hr hout) hcount.ne
    · have hin := (Tracker.inTolerance_iff hr).2 ⟨⟨hlow, hhigh⟩, hgap⟩
      have hlearn := Tracker.learn_of_inTolerance hrange hr hin
      refine ⟨Tracker.publication_of_learn he hs hlearn, ?_⟩
      rintro hreach _ rfl
      rw [Tracker.publication_of_acquiring he hs, hlearn]
      exact Tracker.tryLock_of_eq hreach rfl
  · rintro hlow hhigh hgap _ rfl
    rw [Tracker.publication_of_locked he hs]
    exact Tracker.follow_of_inTolerance hr ((Tracker.inTolerance_iff hr).2 ⟨⟨hlow, hhigh⟩, hgap⟩)
  · have hmiss := (Tracker.inTolerance_eq_false_iff hr).2 hout
    rw [Tracker.publication_of_locked he hs]
    exact ⟨Tracker.follow_of_outOfTolerance hr hmiss, Tracker.follow_of_lost hmiss⟩

end Sys2Proof.Machine
end

section
/-! PROOF. A taken fill report (R140): what the execution makes of it, then a FRAME_FILL report by the record's state
(R141) and a FALLBACK_FILL report by the stream's (R145). -/

namespace Sys2Proof.Machine

section
variable {s : State} {r : FillReport}

/-! ## The report under execution (R140) -/

theorem exec_fillReportTaken_of_take {u : State} {t : Time}
    (h : s.core = some { item := .fillReport r, takenAt := t }) (hu : s.takeFillReport r = u) :
    exec .fillReportTaken s = .next (State.arbitrate { u with core := none }) := by
  subst hu
  change execFillReportTaken s = _
  rw [execFillReportTaken, h]
  rfl

/-- What the outcome of a report works on: the fill of the record it names is none already (R140). -/
def State.endFill (i : RecordId) (s : State) : State := s.setRecord i { s.record i with fill := .noJob }

@[simp] theorem State.endFill_record_self (i : RecordId) (s : State) :
    (s.endFill i).record i = { s.record i with fill := .noJob } := s.setRecord_record_self i _

@[simp] theorem State.endFill_stream (i : RecordId) (s : State) (k : StreamId) :
    (s.endFill i).stream k = s.stream k := rfl

theorem State.applyFill_of_frameFill (hk : r.kind = .frameFill) (k : StreamId) :
    s.applyFill r k = (s.endFill r.index).applyFrameFill r k := by
  rw [State.applyFill, hk]
  rfl

theorem State.applyFill_of_fallbackFill (hk : r.kind = .fallbackFill) (k : StreamId) :
    s.applyFill r k = (s.endFill r.index).applyFallbackFill r k := by
  rw [State.applyFill, hk]
  rfl

theorem BufferRecord.assignment_of_frame {x : BufferRecord} {a : Assignment} {fs : FrameState}
    (h : x.use = .frame a fs) : x.assignment = some a := by
  simp [BufferRecord.assignment, h]

theorem State.takeFillReport_of_named {a : Assignment} (ha : (s.record r.index).assignment = some a)
    (hn : (s.record r.index).fill.namesTag r.tag = true) :
    s.takeFillReport r = (s.applyFill r a.stream).completionCheck a.stream := by
  simp [State.takeFillReport, ha, hn]

theorem State.takeFillReport_of_unnamed {a : Assignment} (ha : (s.record r.index).assignment = some a)
    (hn : (s.record r.index).fill.namesTag r.tag = false) :
    s.takeFillReport r = s.completionCheck a.stream := by
  simp [State.takeFillReport, ha, hn]

/-- The completion check is that of a CLOSING stream and no other (R35). -/
theorem State.completionCheck_of_notClosing {k : StreamId} {st : Stream} (hs : s.stream k = some st)
    (ho : ∀ o, st.phase ≠ .closing o) : s.completionCheck k = s := by
  rw [State.completionCheck, hs]
  cases hp : st.phase with
  | closing o => exact absurd hp (ho o)
  | _ => simp [hp]

/-! ## The notice of the outcome (R141, R145, R193) -/

@[simp] theorem State.notify_stream (p : Port) (kind : NoticeKind) (k : StreamId) (detail : Option (BitVec 32))
    (s : State) (j : StreamId) : (s.notify p kind k detail).stream j = s.stream j := rfl

theorem State.notifyFill_of_done (h : r.outcome = .done) (k : StreamId) (s : State) :
    s.notifyFill r k = s.notify r.requester .fillDone k (some (BitVec.ofNat 32 r.tag.toNat)) := by
  simp [State.notifyFill, fillNotice, h]

theorem State.notifyFill_of_failed {cause : FailCause} {offset : BitVec 24} (h : r.outcome = .failed cause offset)
    (k : StreamId) (s : State) :
    s.notifyFill r k = s.notify r.requester .fillFailed k (some (failureDetail cause offset)) := by
  simp [State.notifyFill, fillNotice, h]

@[simp] theorem State.notifyFill_stream (k : StreamId) (s : State) (j : StreamId) :
    (s.notifyFill r k).stream j = s.stream j := by
  unfold State.notifyFill
  split <;> rfl

/-! ## A frame fill (R141) -/

/-- A WRITING record of an OPEN stream keeps its state; the requester is told. -/
theorem State.takeFillReport_of_writing {a : Assignment} {p : Port} {st : Stream} (hk : r.kind = .frameFill)
    (hu : (s.record r.index).use = .frame a (.writing p)) (hn : (s.record r.index).fill = .named r.tag)
    (hs : s.stream a.stream = some st) (ho : st.phase = .opened) :
    s.takeFillReport r = (s.endFill r.index).notifyFill r a.stream := by
  have hstays : ((s.endFill r.index).record r.index).isSettling = false := by simp [BufferRecord.isSettling, hu]
  rw [State.takeFillReport_of_named (BufferRecord.assignment_of_frame hu) (by simp [hn, FillRef.namesTag]),
    State.applyFill_of_frameFill hk, State.applyFrameFill, hstays, if_neg Bool.false_ne_true]
  exact State.completionCheck_of_notClosing (by simpa using hs) (by simp [ho])

/-- A SETTLING record becomes FREE. -/
theorem State.takeFillReport_of_settling {a : Assignment} (hk : r.kind = .frameFill)
    (hu : (s.record r.index).use = .frame a .settling) (hn : (s.record r.index).fill = .cancelling r.tag) :
    s.takeFillReport r = ((s.endFill r.index).becomeFree r.index a.stream).completionCheck a.stream := by
  have hsettles : ((s.endFill r.index).record r.index).isSettling = true := by simp [BufferRecord.isSettling, hu]
  rw [State.takeFillReport_of_named (BufferRecord.assignment_of_frame hu) (by simp [hn, FillRef.namesTag]),
    State.applyFill_of_frameFill hk, State.applyFrameFill, if_pos hsettles]

end

/-- Settles O42: a record whose fill names the job is WRITING or SETTLING; of a report that no fill names only the
completion check is left. -/
theorem frameFillReportIsApplied : Obligations.FrameFillReportIsApplied := by
  unfold Obligations.FrameFillReportIsApplied
  rintro s r t a fs st u hc hu hs rfl
  refine ⟨?writing, ?settling, ?unnamed⟩
  case writing =>
    rintro p hk hn rfl ho
    have htake := State.takeFillReport_of_writing hk hu hn hs ho
    exact ⟨fun h => exec_fillReportTaken_of_take hc (htake.trans (State.notifyFill_of_done h _ _)),
      fun cause offset h => exec_fillReportTaken_of_take hc (htake.trans (State.notifyFill_of_failed h _ _))⟩
  case settling =>
    rintro hk hn rfl
    exact exec_fillReportTaken_of_take hc (State.takeFillReport_of_settling hk hu hn)
  case unnamed =>
    intro hn
    exact exec_fillReportTaken_of_take hc
      (State.takeFillReport_of_unnamed (BufferRecord.assignment_of_frame hu) hn)

/-! ## A fallback fill (R145) -/

section
variable {s : State} {r : FillReport} {a : Assignment} {hold : PortSet} {c : FallbackCondition} {st : Stream}

/-- The pattern is in the fallback: VALID, of the next generation (R4, R9). -/
theorem State.endFill_validateFallback {i : RecordId} (hu : (s.record i).use = .fallback a hold c) :
    (s.endFill i).validateFallback i = s.setRecord i
      { generation := (s.record i).generation + 1, fill := .noJob, use := .fallback a hold .valid } := by
  simp [State.validateFallback, State.modRecord, State.endFill, BufferRecord.setCondition, BufferRecord.raise, hu]

/-- The pattern is not in the fallback: INVALID, of the same generation (R4). -/
theorem State.endFill_invalidateFallback {i : RecordId} (hu : (s.record i).use = .fallback a hold c) :
    (s.endFill i).modRecord i (BufferRecord.setCondition .invalid) = s.setRecord i
      { s.record i with fill := .noJob, use := .fallback a hold .invalid } := by
  simp [State.modRecord, State.endFill, BufferRecord.setCondition, hu]

theorem State.applyOpenFill_of_done (h : r.outcome = .done) {k : StreamId} (hs : s.stream k = some st) :
    s.applyOpenFill r k st =
      ((s.validateFallback r.index).setStream k (some { st with phase := .opened })).notify st.producer
        .streamReady k none := by
  have hst : (s.validateFallback r.index).stream k = some st := hs
  simp [State.applyOpenFill, h, State.modStream, hst]

theorem State.applyOpenFill_of_failed {cause : FailCause} {offset : BitVec 24} (h : r.outcome = .failed cause offset)
    (k : StreamId) :
    s.applyOpenFill r k st =
      ((s.modRecord r.index (BufferRecord.setCondition .invalid)).notify st.producer .openFailed k
        (some (failureDetail cause offset))).enterClosing k .failure := by
  simp [State.applyOpenFill, h]

/-- The requester of a refill is told while it is the producer present (R145). -/
theorem State.applyRefill_of_done (h : r.outcome = .done) (k : StreamId) :
    s.applyRefill r k st =
      if r.requester = st.producer ∧ st.producerPresent = true then
        (s.validateFallback r.index).notify r.requester .fillDone k (some (BitVec.ofNat 32 r.tag.toNat))
      else s.validateFallback r.index := by
  simp [State.applyRefill, State.notifyFill_of_done h, h]

theorem State.applyRefill_of_failed {cause : FailCause} {offset : BitVec 24} (h : r.outcome = .failed cause offset)
    (k : StreamId) :
    s.applyRefill r k st =
      if r.requester = st.producer ∧ st.producerPresent = true then
        (s.modRecord r.index (BufferRecord.setCondition .invalid)).notify r.requester .fillFailed k
          (some (failureDetail cause offset))
      else s.modRecord r.index (BufferRecord.setCondition .invalid) := by
  simp [State.applyRefill, State.notifyFill_of_failed h, h]

/-- A refill leaves every stream context alone. -/
@[simp] theorem State.applyRefill_stream (k j : StreamId) : (s.applyRefill r k st).stream j = s.stream j := by
  cases h : r.outcome with
  | done => rw [State.applyRefill_of_done h]; split <;> rfl
  | failed cause offset => rw [State.applyRefill_of_failed h]; split <;> rfl
  | cancelled => simp [State.applyRefill, h, apply_ite (fun u : State => u.stream j)]

/-! The report by the state of the stream. -/

theorem State.applyFallbackFill_of_preparing {k : StreamId} (hs : s.stream k = some st) (hp : st.phase = .preparing) :
    s.applyFallbackFill r k = s.applyOpenFill r k st := by
  simp [State.applyFallbackFill, hs, hp]

theorem State.applyFallbackFill_of_live {k : StreamId} (hs : s.stream k = some st)
    (hp : st.phase = .opened ∨ st.phase = .orphaned) : s.applyFallbackFill r k = s.applyRefill r k st := by
  rcases hp with hp | hp <;> simp [State.applyFallbackFill, hs, hp]

theorem State.applyFallbackFill_of_closing {k : StreamId} {o : CloseOrigin} (hs : s.stream k = some st)
    (hp : st.phase = .closing o) : s.applyFallbackFill r k = s := by
  simp [State.applyFallbackFill, hs, hp]

theorem State.takeFillReport_of_fallback (hk : r.kind = .fallbackFill)
    (hu : (s.record r.index).use = .fallback a hold c) (hn : (s.record r.index).fill.namesTag r.tag = true) :
    s.takeFillReport r = ((s.endFill r.index).applyFallbackFill r a.stream).completionCheck a.stream := by
  rw [State.takeFillReport_of_named (a := a) (by simp [BufferRecord.assignment, hu]) hn,
    State.applyFill_of_fallbackFill hk]

end

/-- Settles O43: the outcome is that of the open, of a refill, or none, by the state of the stream; the completion
check that follows has an effect in CLOSING alone. -/
theorem fallbackFillReportIsApplied : Obligations.FallbackFillReportIsApplied := by
  unfold Obligations.FallbackFillReportIsApplied
  rintro s r t a hold c st u valid invalid hc hu hk hn hs rfl hvalid hinvalid
  have hs' : (s.endFill r.index).stream a.stream = some st := hs
  have htake := State.takeFillReport_of_fallback hk hu hn
  rw [← State.endFill_validateFallback hu] at hvalid
  rw [← State.endFill_invalidateFallback hu] at hinvalid
  subst hvalid hinvalid
  refine ⟨fun hp => ?preparing, fun hp => ?live, fun o hp => ?closing⟩
  case preparing =>
    rw [State.applyFallbackFill_of_preparing hs' hp] at htake
    refine ⟨fun h => exec_fillReportTaken_of_take hc ?_, fun cause offset h => exec_fillReportTaken_of_take hc ?_⟩
    · rw [htake, State.applyOpenFill_of_done h hs']
      exact State.completionCheck_of_notClosing (State.setStream_stream_self _ _ _) (by simp)
    · rw [htake, State.applyOpenFill_of_failed h]
      rfl
  case live =>
    have hopen : ∀ o, st.phase ≠ .closing o := by rcases hp with hp | hp <;> simp [hp]
    rw [State.applyFallbackFill_of_live hs' hp,
      State.completionCheck_of_notClosing (by rw [State.applyRefill_stream, hs']) hopen] at htake
    exact ⟨fun h => exec_fillReportTaken_of_take hc (htake.trans (State.applyRefill_of_done h _)),
      fun cause offset h => exec_fillReportTaken_of_take hc (htake.trans (State.applyRefill_of_failed h _))⟩
  case closing =>
    rw [State.applyFallbackFill_of_closing hs' hp] at htake
    exact exec_fillReportTaken_of_take hc htake

end Sys2Proof.Machine
end

section
/-! PROOF. Steps 1 and 2 of the common check order: the codes and lengths of R191 as the model decodes them, the body
that a request command runs, and the check of the session with which every body but that of ATTACH begins. -/

namespace Sys2Proof.Machine

/-! ## Step 1: the table of codes and lengths (R27, R191) -/

/-- The code of a request (R191). -/
def Request.code : Request → Byte
  | .attach => 0x01
  | .detach => 0x02
  | .setNoticeMask => 0x03
  | .openStream => 0x04
  | .closeStream => 0x05
  | .join => 0x06
  | .leave => 0x07
  | .acquireWrite => 0x08
  | .publish => 0x09
  | .discard => 0x0A
  | .fill => 0x0B
  | .refillFallback => 0x0C
  | .acquireRead => 0x0D
  | .release => 0x0E
  | .renew => 0x0F
  | .queryStream => 0x10
  | .queryBuffer => 0x11
  | .queryDevice => 0x12

/-- The payload lengths of a request (R191), those of OPEN_STREAM by the number of its descriptors (R27). -/
def Request.lengths : Request → List Nat
  | .attach | .setNoticeMask | .refillFallback => [5]
  | .detach | .queryDevice => [0]
  | .openStream => [38, 48, 58, 68, 78, 88, 98, 108]
  | .closeStream | .leave | .acquireWrite | .acquireRead | .queryStream | .queryBuffer => [1]
  | .join => [4]
  | .publish | .discard | .release | .renew => [2]
  | .fill => [12]

/-- The 18 requests in the order of their codes. -/
def Request.listed : List Request :=
  [.attach, .detach, .setNoticeMask, .openStream, .closeStream, .join, .leave, .acquireWrite, .publish, .discard,
    .fill, .refillFallback, .acquireRead, .release, .renew, .queryStream, .queryBuffer, .queryDevice]

/-- The rows of R191: a code and the lengths allowed for it. -/
def Request.table : List (Byte × List Nat) := Request.listed.map fun r => (r.code, r.lengths)

theorem Request.mem_listed (r : Request) : r ∈ Request.listed := by cases r <;> decide

theorem requestOfCode_code (r : Request) : requestOfCode r.code = some r := by cases r <;> rfl

/-- A code names the request whose code it is, and no other. -/
theorem requestOfCode_eq_some_iff (c : Byte) (r : Request) : requestOfCode c = some r ↔ c = r.code := by
  refine ⟨fun h => ?_, fun h => h ▸ requestOfCode_code r⟩
  unfold requestOfCode at h
  split at h <;> cases h
  all_goals
    rename_i hc
    exact BitVec.eq_of_toNat_eq hc

/-- 2 to 9 descriptors of 10 bytes behind the fixed part of 18 (R27). -/
theorem descriptorCount_isSome_iff (n : Nat) :
    (descriptorCount n).isSome = true ↔ n ∈ [38, 48, 58, 68, 78, 88, 98, 108] := by
  have hiff : (descriptorCount n).isSome = true ↔ (38 ≤ n ∧ n ≤ 108) ∧ (n - 18) % 10 = 0 := by
    simp [descriptorCount]
  simp only [hiff, List.mem_cons, List.not_mem_nil, or_false]
  omega

theorem Request.allows_iff (r : Request) (n : Nat) : r.allows n = true ↔ n ∈ r.lengths := by
  cases r with
  | openStream => exact descriptorCount_isSome_iff n
  | _ => simp [Request.allows, Request.lengths]

/-- A frame carries a request exactly if it has the request's code and one of its lengths. -/
theorem RequestFrame.request_eq_some_iff (f : RequestFrame) (r : Request) :
    f.request = some r ↔ f.code = r.code ∧ f.payload.length ∈ r.lengths := by
  rw [← requestOfCode_eq_some_iff, ← Request.allows_iff, RequestFrame.request]
  cases requestOfCode f.code with
  | none => simp
  | some q =>
    by_cases hq : q = r
    · simp [hq]
    · by_cases ha : q.allows f.payload.length = true <;> simp [ha, hq]

/-- A frame carries no request exactly if no row of the table has its code and its length. -/
theorem RequestFrame.request_eq_none_iff (f : RequestFrame) :
    f.request = none ↔ ∀ row ∈ Request.table, f.code = row.1 → f.payload.length ∉ row.2 := by
  simp [Option.eq_none_iff_forall_ne_some, f.request_eq_some_iff, Request.table, Request.mem_listed]

/-! ## The body of a request -/

/-- What the execution of a request does before its response is placed (R150, R157). -/
def Request.body (p : Port) : Request → RequestFrame → Time → State → State × Reply
  | .attach => attachRequest p
  | .detach => detachRequest p
  | .setNoticeMask => setNoticeMaskRequest p
  | .openStream => openStreamRequest p
  | .closeStream => closeStreamRequest p
  | .join => joinRequest p
  | .leave => leaveRequest p
  | .acquireWrite => acquireWriteRequest p
  | .publish => publishRequest p
  | .discard => discardRequest p
  | .fill => fillRequest p
  | .refillFallback => refillFallbackRequest p
  | .acquireRead => acquireReadRequest p
  | .release => releaseRequest p
  | .renew => renewRequest p
  | .queryStream => queryStreamRequest p
  | .queryBuffer => queryBufferRequest p
  | .queryDevice => queryDeviceRequest p

section
variable {s : State} {p : Port} {f : RequestFrame} {t : Time}

/-- The command of a frame runs the body of the request that the frame carries. -/
theorem exec_command {r : Request} (hk : f.request = some r) :
    exec (f.command p) s = .next (s.runRequest p (some r) (r.body p)) := by
  rw [RequestFrame.command, hk]
  cases r <;> rfl

theorem exec_command_of_body {r : Request} {u : State} {result : Result} {bytes : List Byte}
    (h : s.Executes p f t) (hk : f.request = some r)
    (hb : r.body p f t s = (u, { result := result, payload := bytes })) :
    exec (f.command p) s = .next (State.respond p f result bytes u).arbitrate :=
  (exec_command hk).trans (congrArg Host.Outcome.next (State.runRequest_of_body h hk hb))

/-! ## Step 2: attachment and session -/

/-- Step 2 comes first in the execution of every request but ATTACH, before what the request itself checks. -/
theorem Request.body_checks_session_first {r : Request} (hr : r ≠ .attach) :
    ∃ rest : Unit → Checked (State × Reply), r.body p f t s = answer (checkSession p f s >>= rest) := by
  cases r with
  | attach => exact absurd rfl hr
  | _ => exact ⟨_, rfl⟩

theorem Request.body_notAttached {r : Request} (hr : r ≠ .attach) (h : (s.port p).inForce = false) :
    r.body p f t s = (s, .refuse .notAttached) := by
  obtain ⟨rest, hbody⟩ := Request.body_checks_session_first hr
  rw [hbody, answer_checkSession, if_pos h]

theorem Request.body_staleSession {r : Request} (hr : r ≠ .attach) (h : (s.port p).inForce = true)
    (hne : f.session ≠ (s.port p).session) : r.body p f t s = (s, .refuse .staleSession) := by
  obtain ⟨rest, hbody⟩ := Request.body_checks_session_first hr
  rw [hbody, answer_checkSession, if_neg (by simp [h]), if_pos hne]

theorem attachRequest_alreadyAttached (h : (s.port p).inForce = true) :
    attachRequest p f t s = (s, .refuse .alreadyAttached) := by
  simp [attachRequest, answer_check, h]

end

/-- Settles O13: the table of the statement is `Request.table`; every body but that of ATTACH begins with
the check of the session. -/
theorem codeLengthAndSessionAreCheckedFirst : Obligations.CodeLengthAndSessionAreCheckedFirst := by
  unfold Obligations.CodeLengthAndSessionAreCheckedFirst
  intro s p f t h
  refine ⟨?table, fun hk => ?unlisted, fun hk ha => ?attach, fun r hk hr =>
    ⟨fun ha => ?detached, fun ha hne => ?stale⟩⟩
  case table => exact f.request_eq_none_iff
  case unlisted => exact congrArg Host.Outcome.next (State.runRequest_of_body h hk rfl)
  case attach =>
    exact congrArg Host.Outcome.next (State.runRequest_of_body h hk (attachRequest_alreadyAttached ha))
  case detached => exact exec_command_of_body h hk (Request.body_notAttached hr ha)
  case stale => exact exec_command_of_body h hk (Request.body_staleSession hr ha hne)

end Sys2Proof.Machine
end

section
/-! PROOF. Enqueueing a notice (R183–R185, R188): where the queue's searches stop, what gathering into the record
behind a front of the queue makes of the port, and then one lemma per outcome of `AgentPort.enqueue`. -/

namespace Sys2Proof.Machine

/-! ## The searches of the queue -/

/-- A search stops behind the front that holds no match. -/
theorem findIdx?_append_cons {α : Type} {pick : α → Bool} {front : List α} {x : α} (back : List α)
    (hfront : ∀ y ∈ front, pick y = false) (hx : pick x = true) :
    (front ++ x :: back).findIdx? pick = some front.length := by
  have hnone : front.findIdx? pick = none := List.findIdx?_eq_none_iff.2 hfront
  simp [List.findIdx?_append, hnone, List.findIdx?_cons, hx]

/-! ## Gathering into a record, with the tally of the head (R184, R188) -/

/-- A sum to which nothing is added. -/
theorem addHeld_zero (a : BitVec 32) : addHeld a 0 = a := by
  have hlt : ¬ 2 ^ 32 ≤ a.toNat + (0 : BitVec 32).toNat := by simpa using a.isLt
  rw [addHeld, if_neg hlt]
  exact BitVec.add_zero a

/-- Into the sum of the tally goes the late count of a FRAME_LATE, and nothing of another kind. -/
theorem addHeld_lateCount (kind : NoticeKind) (detail : Option (BitVec 32)) (sum : BitVec 32) :
    addHeld sum (if kind = .frameLate then detail.getD 0 else 0) =
      if kind = .frameLate then addHeld sum (detail.getD 0) else sum := by
  split
  · rfl
  · exact addHeld_zero sum

/-- The transaction of a port after an occurrence went into the record behind `front`: a record that has a front is
not the head, and is not tallied (R188). -/
def AgentPort.tallyBehind (front : List Notice) (amount : BitVec 32) (q : AgentPort) : Option Transaction :=
  match front with
  | [] => q.transaction.map (Transaction.tallyHead amount)
  | _ :: _ => q.transaction

section
variable {q : AgentPort} {front back : List Notice} {n : Notice}

/-- Gathering at a place changes the record that stands there. -/
theorem AgentPort.gather_behind (h : q.notices = front ++ n :: back) (f : Notice → Notice) (amount : BitVec 32) :
    q.gather front.length f amount =
      { q with transaction := q.tallyBehind front amount, notices := front ++ f n :: back } := by
  have hmodify : q.notices.modify front.length f = front ++ f n :: back := by
    simp [h, List.modify_eq_take_cons_drop]
  rw [AgentPort.gather, hmodify]
  cases front <;> rfl

/-! ## A loss (R185) -/

theorem AgentPort.lose_of_overflow {now : Time} (h : q.notices = front ++ n :: back)
    (hfront : ∀ x ∈ front, x.kind ≠ .overflow) (hn : n.kind = .overflow) :
    q.lose now = q.gather front.length (Notice.countLoss now) 1 := by
  have hfind : (q.notices.findIdx? fun x => x.kind = .overflow) = some front.length := by
    rw [h]
    exact findIdx?_append_cons back (by simpa using hfront) (by simpa using hn)
  rw [AgentPort.lose, hfind]

theorem AgentPort.lose_of_noOverflow {now : Time} (h : ∀ x ∈ q.notices, x.kind ≠ .overflow) :
    q.lose now = q.append { kind := .overflow, stream := none, count := 1, time := now, detail := some 1 } := by
  have hfind : (q.notices.findIdx? fun x => x.kind = .overflow) = none := by
    simpa [List.findIdx?_eq_none_iff] using h
  rw [AgentPort.lose, hfind]

/-! ## The outcomes of enqueueing (R183–R185) -/

variable {kind : NoticeKind} {k : StreamId} {detail : Option (BitVec 32)} {now : Time}

theorem AgentPort.enqueue_discarded (h : q.state = .resetting ∨ q.mask.getLsbD kind.code.toNat = false) :
    q.enqueue kind k detail now = q := by
  rcases h with hreset | hmasked
  · rw [AgentPort.enqueue, if_pos hreset]
  · simp [AgentPort.enqueue, selects, hmasked]

theorem AgentPort.enqueue_coalesced (hs : q.state ≠ .resetting) (hm : q.mask.getLsbD kind.code.toNat = true)
    (h : q.notices = front ++ n :: back) (hfront : ∀ x ∈ front, ¬(x.kind = kind ∧ x.stream = some k))
    (hkind : n.kind = kind) (hstream : n.stream = some k) :
    q.enqueue kind k detail now =
      q.gather front.length (Notice.coalesce detail now) (if kind = .frameLate then detail.getD 0 else 0) := by
  have hfind : (q.notices.findIdx? fun x => x.kind = kind && x.stream = some k) = some front.length := by
    rw [h]
    exact findIdx?_append_cons back (by simpa using hfront) (by simp [hkind, hstream])
  simp [AgentPort.enqueue, selects, hs, hm, hfind]

/-- Where no record gathers the notice, the number of ordinary records decides. -/
theorem AgentPort.enqueue_new (hs : q.state ≠ .resetting) (hm : q.mask.getLsbD kind.code.toNat = true)
    (h : ∀ x ∈ q.notices, ¬(x.kind = kind ∧ x.stream = some k)) :
    q.enqueue kind k detail now =
      if (q.notices.countP fun x => x.kind ≠ .overflow) < 31 then
        q.append { kind := kind, stream := some k, count := 1, time := now, detail := detail }
      else q.lose now := by
  have hfind : (q.notices.findIdx? fun x => x.kind = kind && x.stream = some k) = none := by
    simpa [List.findIdx?_eq_none_iff] using h
  simp [AgentPort.enqueue, selects, hs, hm, hfind, Config.ordinaryNotices]

end

/-- Settles O53: the tally of the statement is `AgentPort.tallyBehind`, and each clause is one outcome of
enqueueing. -/
theorem noticesCoalesceAppendOrOverflow : Obligations.NoticesCoalesceAppendOrOverflow := by
  unfold Obligations.NoticesCoalesceAppendOrOverflow
  intro q kind k detail now tallied _ htallied
  have htally : ∀ front amount add, (∀ sum, addHeld sum amount = add sum) →
      q.tallyBehind front amount = tallied front add := by
    intro front amount add hadd
    rw [htallied]
    cases front with
    | cons => rfl
    | nil =>
      rw [AgentPort.tallyBehind]
      rcases q.transaction with _ | (_ | _ | _ | ⟨copy, _ | _, tally, sum⟩) <;>
        simp [Transaction.tallyHead, hadd]
  refine ⟨AgentPort.enqueue_discarded, fun hs hm => ⟨?coalesced, fun hnew => ⟨fun hroom => ?appended,
    fun hfull => ⟨fun hnone => ?firstLoss, ?furtherLoss⟩⟩⟩⟩
  case coalesced =>
    intro front n back hq hfront hkind hstream
    rw [AgentPort.enqueue_coalesced hs hm hq hfront hkind hstream, AgentPort.gather_behind hq,
      htally _ _ _ (addHeld_lateCount kind detail), Notice.coalesce, hkind]
  case appended => rw [AgentPort.enqueue_new hs hm hnew, if_pos hroom, AgentPort.append]
  case firstLoss =>
    rw [AgentPort.enqueue_new hs hm hnew, if_neg (Nat.not_lt.2 hfull), AgentPort.lose_of_noOverflow hnone,
      AgentPort.append]
  case furtherLoss =>
    intro front n back hq hfront hkind
    rw [AgentPort.enqueue_new hs hm hnew, if_neg (Nat.not_lt.2 hfull),
      AgentPort.lose_of_overflow hq hfront hkind, AgentPort.gather_behind hq, htally _ _ _ fun _ => rfl,
      Notice.countLoss]

end Sys2Proof.Machine
end

section
/-! PROOF. What every command and every step keeps: one relation for the invariants of O55 to O59, one lemma per
command, and with them the arbiter's settledness and the queue. -/

namespace Sys2Proof.Machine

/-! ## What is presented (R151) -/

theorem State.fillItem_eq_none_iff (s : State) : s.fillItem = none ↔ ∀ r, s.engine.state ≠ .reporting r := by
  unfold State.fillItem
  cases s.engine.state <;> simp

theorem State.leaseItem_eq_none_iff (s : State) : s.leaseItem = none ↔ ∀ e ∈ s.leases, e.marked = false := by
  simp [State.leaseItem]

theorem Tracker.hasReport_eq_false_iff (t : Tracker) : t.hasReport = false ↔ t.late = 0 ∧ t.change = none := by
  simp [Tracker.hasReport]

theorem State.cadenceItem_eq_none_iff (s : State) :
    s.cadenceItem = none ↔ ∀ k, (s.tracker k).late = 0 ∧ (s.tracker k).change = none := by
  simp [State.cadenceItem, allStreams, ← Tracker.hasReport_eq_false_iff]

theorem State.portItem_eq_none_iff (s : State) (p : Port) :
    s.portItem p = none ↔ ∀ i, (s.port p).request ≠ .held i := by
  unfold State.portItem
  rcases (s.port p).request with _ | ⟨_ | _⟩ | _ <;> simp

/-- The round-robin examines every port (R152). -/
theorem mem_portsFrom (pointer p : Port) : p ∈ portsFrom pointer := by
  simp only [portsFrom, allPorts, List.mem_map, List.mem_finRange, true_and]
  exact ⟨p - pointer, add_sub_cancel pointer p⟩

theorem State.roundRobinItem_eq_none_iff (s : State) :
    s.roundRobinItem = none ↔ ∀ p i, (s.port p).request ≠ .held i := by
  simp [State.roundRobinItem, mem_portsFrom, State.portItem_eq_none_iff]

/-- Nothing is presented exactly when none of the four kinds of item is. -/
theorem State.chosenItem_eq_none_iff (s : State) :
    s.chosenItem = none ↔ (∀ r, s.engine.state ≠ .reporting r) ∧ (∀ e ∈ s.leases, e.marked = false) ∧
      (∀ k, (s.tracker k).late = 0 ∧ (s.tracker k).change = none) ∧ ∀ p i, (s.port p).request ≠ .held i := by
  rw [← s.fillItem_eq_none_iff, ← s.leaseItem_eq_none_iff, ← s.cadenceItem_eq_none_iff,
    ← s.roundRobinItem_eq_none_iff]
  simp only [State.chosenItem, Option.orElse_eq_orElse, Option.orElse_eq_or, Option.or_eq_none_iff]

/-- A change that frees nothing and presents nothing leaves the arbiter settled. -/
theorem State.ArbiterSettled.of_presents_no_more {s u : State} (hcore : u.core = s.core)
    (hstate : ∀ p, (u.port p).state = (s.port p).state) (hrequest : ∀ p, (u.port p).request = (s.port p).request)
    (hengine : ∀ r, u.engine.state = .reporting r → ∃ r', s.engine.state = .reporting r')
    (hleases : ∀ e ∈ u.leases, e ∈ s.leases) (htrackers : ∀ k, u.tracker k = s.tracker k)
    (h : s.ArbiterSettled) : u.ArbiterSettled := by
  intro hc hp
  obtain ⟨hfill, hlease, hcadence, hheld⟩ := s.chosenItem_eq_none_iff.1
    (h (hcore ▸ hc) fun p => by rw [← hstate]; exact hp p)
  refine u.chosenItem_eq_none_iff.2 ⟨fun r hr => ?_, fun e he => hlease e (hleases e he), fun k => ?_, fun p i => ?_⟩
  · obtain ⟨r', hr'⟩ := hengine r hr
    exact hfill r' hr'
  · rw [htrackers]
    exact hcadence k
  · rw [hrequest]
    exact hheld p i

/-! ## The invariants of one port -/

/-- What `State.SlotsExclusive` asks of one port. -/
def AgentPort.SlotsExclusive (q : AgentPort) : Prop :=
  (q.request ≠ .empty → q.response = none) ∧
    (q.transaction = some (.submit true) → q.request = .empty ∧ q.response = none)

/-- What `State.SessionsLegal` asks of one port. -/
def AgentPort.SessionLegal (q : AgentPort) : Prop :=
  (q.state = .attached → q.inForce = true) ∧ (q.state = .init ∨ q.state = .detached → q.inForce = false) ∧
    (q.inForce = true → q.session ≠ 0)

/-- What `State.WithinCapacities` asks of one port. -/
def AgentPort.WithinCapacities (q : AgentPort) : Prop :=
  (q.notices.countP fun n => n.kind ≠ .overflow) ≤ 31 ∧ (q.notices.countP fun n => n.kind = .overflow) ≤ 1 ∧
    q.expired.length ≤ 8

/-- A change of a port that keeps each of the three invariants. -/
structure AgentPort.Preserves (q r : AgentPort) : Prop where
  capacities : q.WithinCapacities → r.WithinCapacities
  slots : q.SlotsExclusive → r.SlotsExclusive
  session : q.SessionLegal → r.SessionLegal

theorem AgentPort.Preserves.refl (q : AgentPort) : q.Preserves q := ⟨id, id, id⟩

theorem AgentPort.Preserves.trans {q r t : AgentPort} (h : q.Preserves r) (h' : r.Preserves t) : q.Preserves t :=
  ⟨h'.capacities ∘ h.capacities, h'.slots ∘ h.slots, h'.session ∘ h.session⟩

theorem AgentPort.Keeps.request_eq {q r : AgentPort} (h : q.Keeps r) : r.request = q.request := by
  rw [h.fixed]

/-- What a procedure of the core does to a port keeps its invariants. -/
theorem AgentPort.Keeps.preserves {q r : AgentPort} (h : q.Keeps r) : q.Preserves r where
  capacities := fun ⟨h1, h2, h3⟩ => ⟨h.ordinary h1, h.overflow h2, h.expired h3⟩
  slots := fun ⟨h1, h2⟩ => by
    rw [h.fixed]
    exact ⟨h1, fun hx => h2 ((h.submit true).1 hx)⟩
  session hq := by
    rw [h.fixed]
    exact hq

/-! ## The invariants of the machine -/

/-- A change of the machine that leaves the queue alone and keeps each of the invariants of O55 to O59. -/
structure State.Preserves (s u : State) : Prop where
  pending : u.pending = s.pending
  capacities : s.WithinCapacities → u.WithinCapacities
  regions : s.RegionsDisjoint → u.RegionsDisjoint
  engine : s.engine.Coherent → u.engine.Coherent
  slots : s.SlotsExclusive → u.SlotsExclusive
  sessions : s.SessionsLegal → u.SessionsLegal

theorem State.Preserves.refl (s : State) : s.Preserves s := ⟨rfl, id, id, id, id, id⟩

theorem State.Preserves.trans {s t u : State} (h : s.Preserves t) (h' : t.Preserves u) : s.Preserves u where
  pending := h'.pending.trans h.pending
  capacities := h'.capacities ∘ h.capacities
  regions := h'.regions ∘ h.regions
  engine := h'.engine ∘ h.engine
  slots := h'.slots ∘ h.slots
  sessions := h'.sessions ∘ h.sessions

/-- The invariants are those of the ports, the lease table, the engine and the records. -/
theorem State.Preserves.of_parts {s u : State} (hpending : u.pending = s.pending)
    (hports : ∀ p, (s.port p).Preserves (u.port p)) (hleases : s.leases.length ≤ 128 → u.leases.length ≤ 128)
    (hjobs : s.engine.jobs.length ≤ 8 → u.engine.jobs.length ≤ 8)
    (hengine : s.engine.Coherent → u.engine.Coherent) (hregions : s.RegionsDisjoint → u.RegionsDisjoint) :
    s.Preserves u where
  pending := hpending
  capacities := fun ⟨h1, h2, h3⟩ => ⟨hleases h1, hjobs h2, fun p => (hports p).capacities (h3 p)⟩
  regions := hregions
  engine := hengine
  slots h p := (hports p).slots (h p)
  sessions h p := (hports p).session (h p)

theorem State.Keeps.preserves {s u : State} (h : s.Keeps u) : s.Preserves u :=
  .of_parts h.pending (fun p => (h.ports p).preserves) h.leases h.jobs h.engine h.regions

theorem State.setPort_preserves {s : State} {p : Port} {q : AgentPort} (h : (s.port p).Preserves q) :
    s.Preserves (s.setPort p q) := by
  refine .of_parts rfl (fun j => ?_) id id id id
  rw [State.setPort_port]
  split
  · rename_i hj
    subst hj
    exact h
  · exact .refl _

theorem State.setCore_preserves (s : State) (c : Option Execution) : s.Preserves (s.setCore c) :=
  .of_parts rfl (fun _ => .refl _) id id id id

theorem State.setEngine_preserves {s : State} {e : FillEngine}
    (hjobs : s.engine.jobs.length ≤ 8 → e.jobs.length ≤ 8) (he : s.engine.Coherent → e.Coherent) :
    s.Preserves (s.setEngine e) :=
  (s.setEngine_keeps e hjobs he).preserves

/-! ## The arbiter -/

theorem RequestSlot.take_ne_empty {x : RequestSlot} (h : x.take ≠ .empty) : x ≠ .empty := by
  rintro rfl
  exact h rfl

/-- A slot that is granted is in use before and after (R150). -/
theorem AgentPort.take_preserves (q : AgentPort) : q.Preserves { q with request := q.request.take } where
  capacities := id
  slots := fun ⟨h1, h2⟩ => ⟨fun hx => h1 (RequestSlot.take_ne_empty hx), fun hx => by
    obtain ⟨hr, hn⟩ := h2 hx
    exact ⟨by simp [hr, RequestSlot.take], hn⟩⟩
  session := id

theorem FillEngine.takeReport_jobs_length (now : Time) (e : FillEngine) :
    (e.takeReport now).jobs.length ≤ e.jobs.length := by
  rw [FillEngine.takeReport, FillEngine.startHead_jobs_length]
  exact (List.drop_sublist 1 _).length_le

theorem State.RegionsDisjoint.of_records {s u : State} (hr : u.records = s.records) (h : s.RegionsDisjoint) :
    u.RegionsDisjoint :=
  State.regionsDisjoint_of (fun i => .inl (by simp only [State.record, hr])) h

theorem State.grant_preserves (i : Item) (s : State) : s.Preserves (s.grant i) := by
  obtain ⟨hrecords, -, -, -, -, hpending, -⟩ := s.grant_frame i
  refine .of_parts hpending (fun p => ?_) (s.grant_leases i).trans (fun h => ?_) (fun h => ?_)
    (State.RegionsDisjoint.of_records hrecords)
  · rcases s.grant_port i p with h | h <;> rw [h]
    · exact .refl _
    · exact AgentPort.take_preserves _
  · rcases s.grant_engine i with he | he <;> rw [he]
    · exact h
    · exact (FillEngine.takeReport_jobs_length _ _).trans h
  · rcases s.grant_engine i with he | he <;> rw [he]
    · exact h
    · exact FillEngine.takeReport_coherent _ _ h

theorem State.arbitrate_preserves (s : State) : s.Preserves s.arbitrate := by
  rcases s.arbitrate_cases with h | ⟨i, -, -, -, h⟩ <;> rw [h]
  · exact .refl s
  · exact s.grant_preserves i

/-! ## What a command's run can be -/

/-- A run of a command: it keeps the invariants, and ends with the arbiter's choice or leaves the arbiter as settled
as it was. -/
def State.Runs (s : State) (o : Outcome) : Prop :=
  ∃ v, s.Preserves v ∧ (o = .next v.arbitrate ∨ o = .next v ∧ (s.ArbiterSettled → v.ArbiterSettled))

/-- A run that ends without a choice of the arbiter. -/
theorem State.Runs.unarbitrated {s v : State} (h : s.Preserves v) (hsettled : s.ArbiterSettled → v.ArbiterSettled) :
    s.Runs (.next v) := ⟨v, h, .inr ⟨rfl, hsettled⟩⟩

theorem State.Runs.stay (s : State) : s.Runs (.next s) := .unarbitrated (.refl s) id

theorem State.Runs.arbitrated {s v : State} (h : s.Preserves v) : s.Runs (.next v.arbitrate) := ⟨v, h, .inl rfl⟩

theorem State.Runs.finished {s v : State} (h : s.Preserves v) : s.Runs (.next v.finish) :=
  .arbitrated (h.trans (v.setCore_preserves none))

/-- A change of one port that leaves its state and its request slot alone presents nothing. -/
theorem State.Runs.port {s : State} {p : Port} {q : AgentPort} (h : (s.port p).Preserves q)
    (hstate : q.state = (s.port p).state) (hrequest : q.request = (s.port p).request) :
    s.Runs (.next (s.setPort p q)) := by
  refine .unarbitrated (State.setPort_preserves h) (State.ArbiterSettled.of_presents_no_more rfl (fun j => ?_)
    (fun j => ?_) (fun r hr => ⟨r, hr⟩) (fun e he => he) fun _ => rfl) <;>
    · rw [State.setPort_port]
      split
      · rename_i hj
        subst hj
        assumption
      · rfl

/-- Every run ends in a next state that the run's change keeps. -/
theorem State.Runs.next {s : State} {o : Outcome} (h : s.Runs o) :
    ∃ u, o = .next u ∧ s.Preserves u ∧ (s.ArbiterSettled → u.ArbiterSettled) := by
  obtain ⟨v, hv, rfl | ⟨rfl, hsettled⟩⟩ := h
  · exact ⟨_, rfl, hv.trans v.arbitrate_preserves, fun _ => v.arbitrate_settled⟩
  · exact ⟨v, rfl, hv, hsettled⟩

/-! ## Transactions -/

/-- A change of a port that leaves notices, expired handles, slots and session alone, and starts no accepted SUBMIT. -/
theorem AgentPort.preserves_of_same {q r : AgentPort} (hnotices : r.notices = q.notices)
    (hexpired : r.expired = q.expired) (hrequest : r.request = q.request) (hresponse : r.response = q.response)
    (hstate : r.state = q.state) (hforce : r.inForce = q.inForce) (hsession : r.session = q.session)
    (hsubmit : r.transaction = some (.submit true) → q.transaction = some (.submit true)) : q.Preserves r where
  capacities h := by
    simpa only [AgentPort.WithinCapacities, hnotices, hexpired] using h
  slots := fun ⟨h1, h2⟩ => by
    simp only [AgentPort.SlotsExclusive, hrequest, hresponse]
    exact ⟨h1, fun hx => h2 (hsubmit hx)⟩
  session h := by
    simpa only [AgentPort.SessionLegal, hstate, hforce, hsession] using h

theorem State.selectFalls_runs (s : State) (p : Port) : s.Runs (.next (s.selectFalls p)) := by
  rcases s.selectFalls_cases p with h | ⟨l, h⟩ <;> rw [h]
  · exact .stay s
  · exact .port (AgentPort.preserves_of_same rfl rfl rfl rfl rfl rfl rfl id) rfl rfl

theorem State.selectRises_runs (s : State) (p : Port) : s.Runs (.next (s.selectRises p)) := by
  rcases s.selectRises_cases p with h | h <;> rw [h]
  · exact .stay s
  · exact .port (AgentPort.preserves_of_same rfl rfl rfl rfl rfl rfl rfl id) rfl rfl

/-- The end of a code byte that begins a transaction other than an accepted SUBMIT. -/
theorem State.begin_runs (s : State) (p : Port) {f : AgentPort → AgentPort} {x : AgentPort → Transaction}
    (hf : ∀ q, f q = q.begin (x q)) (hx : ∀ q, x q ≠ .submit true) :
    s.Runs (.next (if s.mayBegin p then s.modPort p f else s)) := by
  split
  · rw [State.modPort, hf]
    exact .port (AgentPort.preserves_of_same rfl rfl rfl rfl rfl rfl rfl fun h => absurd (Option.some.inj h) (hx _))
      rfl rfl
  · exact .stay s

/-- The decision of R169 lets a frame in where both slots are EMPTY. -/
theorem AgentPort.accepts_slots {q : AgentPort} (h : q.accepts = true) :
    q.request = .empty ∧ q.response = none := by
  simp only [AgentPort.accepts, Bool.and_eq_true, decide_eq_true_eq, Option.isNone_iff_eq_none] at h
  exact ⟨h.1.2, h.2⟩

theorem AgentPort.beginSubmit_preserves (q : AgentPort) : q.Preserves (q.begin (.submit q.accepts)) where
  capacities := id
  slots := fun ⟨h1, _⟩ => ⟨h1, fun hx => by
    have haccepts : q.accepts = true := by
      injection hx with hx
      injection hx
    exact AgentPort.accepts_slots haccepts⟩
  session := id

/-- The rising edge of an accepted SUBMIT fills one of two EMPTY slots (R170). -/
theorem AgentPort.endSubmit_preserves {q : AgentPort} {accepted : Bool} (bytes : List Byte)
    (h : q.transaction = some (.submit accepted)) : q.Preserves (q.endSubmit accepted bytes) := by
  cases accepted with
  | false =>
    exact AgentPort.preserves_of_same rfl rfl rfl rfl rfl rfl rfl fun hx => by
      simp [AgentPort.endSubmit, AgentPort.rise] at hx
  | true =>
    simp only [AgentPort.endSubmit, if_true, AgentPort.receive]
    split
    · exact ⟨id, fun ⟨_, h2⟩ => ⟨fun _ => (h2 h).2, fun hx => by simp [AgentPort.rise] at hx⟩, id⟩
    · refine ⟨id, fun ⟨_, h2⟩ => ⟨fun hx => absurd (h2 h).1 hx, fun hx => by simp [AgentPort.rise] at hx⟩, id⟩

theorem execSubmit_runs (p : Port) (edge : SubmitEdge) (s : State) : s.Runs (execSubmit p edge s) := by
  cases edge with
  | fall => exact s.selectFalls_runs p
  | code =>
    simp only [execSubmit]
    split
    · exact .port (AgentPort.beginSubmit_preserves _) rfl rfl
    · exact .stay s
  | rise bytes =>
    simp only [execSubmit]
    split
    · rename_i accepted h
      exact .arbitrated (State.setPort_preserves (AgentPort.endSubmit_preserves bytes h))
    · exact s.selectRises_runs p

/-- The rising edge of any transaction keeps the invariants of the port. -/
theorem AgentPort.rise_preserves (out : List Byte) (q : AgentPort) : q.Preserves (q.rise out) :=
  AgentPort.preserves_of_same rfl rfl rfl rfl rfl rfl rfl fun hx => by simp [AgentPort.rise] at hx

theorem AgentPort.endCollect_preserves (copy : List Byte) (full : Bool) (n : Nat) (q : AgentPort) :
    q.Preserves (q.endCollect copy full n) := by
  refine (q.rise_preserves (shiftedOut copy n)).trans ?_
  simp only [AgentPort.endCollect]
  split
  · exact ⟨id, fun ⟨h1, h2⟩ => ⟨fun _ => rfl, fun hx => ⟨(h2 hx).1, rfl⟩⟩, id⟩
  · exact .refl _

theorem AgentPort.endCollect_frame (copy : List Byte) (full : Bool) (n : Nat) (q : AgentPort) :
    (q.endCollect copy full n).state = q.state ∧ (q.endCollect copy full n).request = q.request := by
  simp only [AgentPort.endCollect]
  split <;> exact ⟨rfl, rfl⟩

theorem execCollect_runs (p : Port) (edge : ReadEdge) (s : State) : s.Runs (execCollect p edge s) := by
  cases edge with
  | fall => exact s.selectFalls_runs p
  | code => exact s.begin_runs p (fun _ => rfl) fun _ => by simp
  | rise n =>
    simp only [execCollect]
    split
    · rename_i copy full h
      obtain ⟨hstate, hrequest⟩ := (s.port p).endCollect_frame copy full n
      exact .port (AgentPort.endCollect_preserves _ _ _ _) hstate hrequest
    · exact s.selectRises_runs p

theorem AgentPort.endStatus_preserves (copy : List Byte) (r e : Bool) (n : Nat) (q : AgentPort) :
    q.Preserves (q.endStatus copy r e n) := by
  refine (q.rise_preserves (shiftedOut copy n)).trans ?_
  simp only [AgentPort.endStatus]
  split
  · exact AgentPort.preserves_of_same rfl rfl rfl rfl rfl rfl rfl id
  · exact .refl _

theorem AgentPort.endStatus_frame (copy : List Byte) (r e : Bool) (n : Nat) (q : AgentPort) :
    (q.endStatus copy r e n).state = q.state ∧ (q.endStatus copy r e n).request = q.request := by
  simp only [AgentPort.endStatus]
  split <;> exact ⟨rfl, rfl⟩

theorem execStatus_runs (p : Port) (edge : ReadEdge) (s : State) : s.Runs (execStatus p edge s) := by
  cases edge with
  | fall => exact s.selectFalls_runs p
  | code => exact s.begin_runs p (fun _ => rfl) fun _ => by simp
  | rise n =>
    simp only [execStatus]
    split
    · rename_i copy r e h
      obtain ⟨hstate, hrequest⟩ := (s.port p).endStatus_frame copy r e n
      exact .port (AgentPort.endStatus_preserves _ _ _ _ _) hstate hrequest
    · exact s.selectRises_runs p

/-- Popping the head, or leaving it with its tally, adds no record of either sort (R187, R188). -/
theorem AgentPort.popHead_preserves (tally : Nat) (sum : BitVec 32) (q : AgentPort) :
    q.Preserves (q.popHead tally sum) := by
  unfold AgentPort.popHead
  split
  · have hle := fun pick : Notice → Bool => (List.drop_sublist 1 q.notices).countP_le (p := pick)
    exact ⟨fun ⟨h1, h2, h3⟩ => ⟨(hle _).trans h1, (hle _).trans h2, h3⟩, id, id⟩
  · have heq := fun pick : NoticeKind → Bool =>
      countP_modify_kind pick (Notice.keepTally tally sum) (fun _ => rfl) 0 q.notices
    refine ⟨fun ⟨h1, h2, h3⟩ => ⟨?_, ?_, h3⟩, id, id⟩
    · exact (heq fun k => decide (k ≠ .overflow)).trans_le h1
    · exact (heq fun k => decide (k = .overflow)).trans_le h2

theorem AgentPort.popHead_frame (tally : Nat) (sum : BitVec 32) (q : AgentPort) :
    (q.popHead tally sum).state = q.state ∧ (q.popHead tally sum).request = q.request := by
  unfold AgentPort.popHead
  split <;> exact ⟨rfl, rfl⟩

theorem AgentPort.endNotice_preserves (copy : List Byte) (transfer : Bool) (tally : Nat) (sum : BitVec 32) (n : Nat)
    (q : AgentPort) : q.Preserves (q.endNotice copy transfer tally sum n) := by
  refine (q.rise_preserves (shiftedOut copy n)).trans ?_
  simp only [AgentPort.endNotice]
  split
  · exact AgentPort.popHead_preserves _ _ _
  · exact .refl _

theorem AgentPort.endNotice_frame (copy : List Byte) (transfer : Bool) (tally : Nat) (sum : BitVec 32) (n : Nat)
    (q : AgentPort) : (q.endNotice copy transfer tally sum n).state = q.state ∧
      (q.endNotice copy transfer tally sum n).request = q.request := by
  simp only [AgentPort.endNotice]
  split
  · exact AgentPort.popHead_frame _ _ _
  · exact ⟨rfl, rfl⟩

theorem execNotice_runs (p : Port) (edge : ReadEdge) (s : State) : s.Runs (execNotice p edge s) := by
  cases edge with
  | fall => exact s.selectFalls_runs p
  | code => exact s.begin_runs p (fun _ => rfl) fun _ => by simp
  | rise n =>
    simp only [execNotice]
    split
    · rename_i copy transfer tally sum h
      obtain ⟨hstate, hrequest⟩ := (s.port p).endNotice_frame copy transfer tally sum n
      exact .port (AgentPort.endNotice_preserves _ _ _ _ _ _) hstate hrequest
    · exact s.selectRises_runs p

theorem AgentPort.emptyNotices_preserves (q : AgentPort) : q.Preserves q.emptyNotices where
  capacities := fun ⟨_, _, h⟩ => ⟨Nat.zero_le _, Nat.zero_le _, h⟩
  slots := fun ⟨h1, h2⟩ => ⟨h1, fun hx => h2 ((Transaction.endTransfer_submit _ _).1 hx)⟩
  session := id

/-- A port with no transaction under way that enters RESETTING keeps its invariants (R177, R178). -/
theorem AgentPort.enterResetting_preserves {q : AgentPort} (h : q.transaction = none) :
    q.Preserves q.enterResetting :=
  q.emptyNotices_preserves.trans ⟨id, fun _ => ⟨fun _ => rfl, fun hx => by
    simp [AgentPort.enterResetting, AgentPort.emptyNotices, h] at hx⟩, fun ⟨_, _, h⟩ => ⟨nofun, by simp [AgentPort.enterResetting], h⟩⟩

theorem execPortReset_runs (p : Port) (edge : SelectEdge) (s : State) : s.Runs (execPortReset p edge s) := by
  cases edge with
  | fall => exact s.selectFalls_runs p
  | rise n =>
    have hrise := AgentPort.rise_preserves (List.replicate n 0) (s.port p)
    simp only [execPortReset]
    split
    · split
      · exact .port hrise rfl rfl
      · exact .port hrise rfl rfl
      all_goals
        refine .arbitrated ((State.setPort_preserves hrise).trans (State.setPort_preserves ?_))
        exact AgentPort.enterResetting_preserves (by simp [AgentPort.rise])
    · exact s.selectRises_runs p

theorem execUnknownTransaction_runs (p : Port) (code : Option Byte) (edge : SelectEdge) (s : State) :
    s.Runs (execUnknownTransaction p code edge s) := by
  cases edge with
  | fall => exact s.selectFalls_runs p
  | rise n =>
    simp only [execUnknownTransaction]
    split
    · exact s.selectRises_runs p
    · split
      · exact .stay s
      · split
        · exact .port (AgentPort.preserves_of_same rfl rfl rfl rfl rfl rfl rfl fun hx => by
            simp [AgentPort.rise] at hx) rfl rfl
        · exact s.selectRises_runs p

/-! ## Requests -/

/-- A port whose request is TAKEN keeps its invariants when the response is placed (R150, R178). -/
theorem State.respond_preserves {u : State} {p : Port} {i : SlotItem} (h : (u.port p).request = .taken i)
    (f : RequestFrame) (r : Result) (bytes : List Byte) : u.Preserves (State.respond p f r bytes u) := by
  refine (State.setPort_preserves ?_).trans (State.setCore_preserves _ _)
  split
  · exact ⟨id, fun ⟨h1, h2⟩ => ⟨fun _ => h1 (by simp [h]), fun hx => by simp [h] at h2; exact absurd hx h2⟩, id⟩
  · exact ⟨id, fun ⟨h1, h2⟩ => ⟨fun hx => absurd rfl hx, fun hx => by simp [h] at h2; exact absurd hx h2⟩, id⟩

/-- A request command runs where its body keeps the invariants and leaves the request slot to the response. -/
theorem State.runRequest_runs {s : State} {p : Port} {kind : Option Request}
    {body : RequestFrame → Time → State → State × Reply}
    (hbody : ∀ f t, s.Preserves (body f t s).1 ∧ ((body f t s).1.port p).request = (s.port p).request) :
    s.Runs (.next (s.runRequest p kind body)) := by
  by_cases h : ∃ f t, s.Executes p f t ∧ f.request = kind
  · obtain ⟨f, t, hx, hk⟩ := h
    obtain ⟨hpres, hrequest⟩ := hbody f t
    rw [State.runRequest_of_executes body hx hk]
    exact .arbitrated (hpres.trans (State.respond_preserves (hrequest.trans hx.2) _ _ _))
  · rw [State.runRequest_of_other body fun f t hx hk => h ⟨f, t, hx, hk⟩]
    exact .stay s

/-- A request command whose body is made of the core's procedures. -/
theorem State.runRequest_runs_of_keeps {s : State} {p : Port} {kind : Option Request}
    {body : RequestFrame → Time → State → State × Reply} (h : ∀ f t, s.Keeps (body f t s).1) :
    s.Runs (.next (s.runRequest p kind body)) :=
  State.runRequest_runs fun f t => ⟨(h f t).preserves, ((h f t).ports p).request_eq⟩

theorem nextSession_ne_zero (n : BitVec 8) : nextSession n ≠ 0 := by
  unfold nextSession
  split
  · decide
  · bv_omega

/-- The states an execution moves a port to (R178). -/
theorem PortState.moveTo_cases (target x : PortState) :
    PortState.moveTo target x = .resetting ∨ PortState.moveTo target x = target := by
  unfold PortState.moveTo
  split
  · exact .inl rfl
  · exact .inr rfl

theorem AgentPort.attach_preserves (f : RequestFrame) (q : AgentPort) : q.Preserves (q.attach f) where
  capacities := id
  slots := id
  session _ := by
    refine ⟨fun _ => rfl, fun h => ?_, fun _ => nextSession_ne_zero _⟩
    rcases PortState.moveTo_cases .attached q.state with hm | hm <;> simp [AgentPort.attach, hm] at h

theorem AgentPort.setMask_preserves (f : RequestFrame) (q : AgentPort) : q.Preserves (q.setMask f) := ⟨id, id, id⟩

/-- Ending a session and leaving ATTACHED go together (R176, R179). -/
theorem AgentPort.endSession_preserves (q : AgentPort) {x : PortState} (hx : x ≠ .attached) :
    q.Preserves { q.endSession with state := x } :=
  q.emptyNotices_preserves.trans ⟨id, id, fun _ => ⟨fun h => absurd h hx, fun _ => rfl, nofun⟩⟩

theorem AgentPort.detach_preserves (q : AgentPort) : q.Preserves q.detach :=
  q.endSession_preserves (by rcases PortState.moveTo_cases .detached q.state with h | h <;> simp [h])

theorem AgentPort.endForcedDetach_preserves (q : AgentPort) : q.Preserves q.endForcedDetach := by
  refine (q.endSession_preserves (x := .detached) (by decide)).trans ⟨id, ?_, id⟩
  exact fun ⟨_, h2⟩ => ⟨fun hx => absurd rfl hx, fun hx => ⟨rfl, (h2 hx).2⟩⟩

/-- The execution of ATTACH (R155, R174). -/
theorem attachRequest_eq (p : Port) (f : RequestFrame) (t : Time) (s : State) :
    attachRequest p f t s =
      if (s.port p).inForce = true then (s, .refuse .alreadyAttached)
      else if (maskInRange f.mask && enablesInRange f.enables) = true then
        (s.modPort p (AgentPort.attach f), .ok [nextSession (s.port p).session])
      else (s, .refuse .badParameter) := by
  rw [attachRequest, answer_check, checkMask, answer_check]
  cases (s.port p).inForce <;> rfl

/-- The execution of SET_NOTICE_MASK (R175). -/
theorem setNoticeMaskRequest_eq (p : Port) (f : RequestFrame) (t : Time) (s : State) :
    setNoticeMaskRequest p f t s =
      if (s.port p).inForce = false then (s, .refuse .notAttached)
      else if f.session ≠ (s.port p).session then (s, .refuse .staleSession)
      else if (maskInRange f.mask && enablesInRange f.enables) = true then
        (s.modPort p (AgentPort.setMask f), .ok (bytesOfNat 4 f.mask.toNat ++ [f.enables]))
      else (s, .refuse .badParameter) := by
  rw [setNoticeMaskRequest, answer_checkSession, checkMask, answer_check]
  rfl

/-- The execution of DETACH (R176). -/
theorem detachRequest_eq (p : Port) (f : RequestFrame) (t : Time) (s : State) :
    detachRequest p f t s =
      if (s.port p).inForce = false then (s, .refuse .notAttached)
      else if f.session ≠ (s.port p).session then (s, .refuse .staleSession)
      else ((s.detachActions p).modPort p AgentPort.detach, .ok [(s.port p).session]) := by
  rw [detachRequest, answer_checkSession]
  rfl

theorem execAttach_runs (p : Port) (s : State) : s.Runs (execAttach p s) := by
  refine State.runRequest_runs fun f t => ?_
  rw [attachRequest_eq]
  split
  · exact ⟨.refl s, rfl⟩
  · split
    · exact ⟨State.setPort_preserves (AgentPort.attach_preserves f _), by simp [State.modPort]; rfl⟩
    · exact ⟨.refl s, rfl⟩

theorem execSetNoticeMask_runs (p : Port) (s : State) : s.Runs (execSetNoticeMask p s) := by
  refine State.runRequest_runs fun f t => ?_
  rw [setNoticeMaskRequest_eq]
  split
  · exact ⟨.refl s, rfl⟩
  split
  · exact ⟨.refl s, rfl⟩
  split
  · exact ⟨State.setPort_preserves (AgentPort.setMask_preserves f _), by simp [State.modPort]; rfl⟩
  · exact ⟨.refl s, rfl⟩

theorem execDetach_runs (p : Port) (s : State) : s.Runs (execDetach p s) := by
  refine State.runRequest_runs fun f t => ?_
  rw [detachRequest_eq]
  split
  · exact ⟨.refl s, rfl⟩
  split
  · exact ⟨.refl s, rfl⟩
  · have hactions := s.detachActions_keeps p
    generalize s.detachActions p = u at hactions ⊢
    refine ⟨hactions.preserves.trans (State.setPort_preserves (AgentPort.detach_preserves _)), ?_⟩
    rw [State.modPort, State.setPort_port_self]
    exact (hactions.ports p).request_eq

/-! ## Forced detach and internal reports -/

theorem State.forceDetach_preserves (p : Port) (s : State) : s.Preserves (s.forceDetach p) := by
  refine State.Preserves.trans ?_ (State.setPort_preserves (AgentPort.endForcedDetach_preserves _))
  split
  · exact (s.detachActions_keeps p).preserves
  · exact (s.clearExpired_keeps p).preserves

theorem execForcedDetach_runs (p : Port) (s : State) : s.Runs (execForcedDetach p s) := by
  unfold execForcedDetach
  split
  · split
    · exact .finished (s.forceDetach_preserves p)
    · exact .stay s
  · exact .stay s

theorem execFillReportTaken_runs (s : State) : s.Runs (execFillReportTaken s) := by
  unfold execFillReportTaken
  split
  · exact .finished (s.takeFillReport_keeps _).preserves
  · exact .stay s

theorem execWriteExpiryTaken_runs (s : State) : s.Runs (execWriteExpiryTaken s) := by
  unfold execWriteExpiryTaken
  split
  · split
    · exact .finished ((s.reclaimWrite_keeps _ _).trans (State.recordExpiry_keeps _ _ _)).preserves
    · exact .finished (.refl s)
    · exact .stay s
  · exact .stay s

theorem execReadExpiryTaken_runs (s : State) : s.Runs (execReadExpiryTaken s) := by
  unfold execReadExpiryTaken
  split
  · split
    · exact .finished (((s.endHold_keeps _ _ _).trans (State.completionCheck_keeps _ _)).trans
        (State.recordExpiry_keeps _ _ _)).preserves
    · exact .finished (.refl s)
    · exact .stay s
  · exact .stay s

theorem execCadenceReportTaken_runs (k : StreamId) (s : State) : s.Runs (execCadenceReportTaken k s) := by
  unfold execCadenceReportTaken
  split
  · split
    · exact .finished (s.takeCadence_keeps _ _ _ _ _).preserves
    · exact .stay s
  · exact .stay s

/-! ## Timers and the fill port -/

theorem execLeaseDeadlineReached_runs (s : State) : s.Runs (execLeaseDeadlineReached s) := by
  unfold execLeaseDeadlineReached
  split
  · exact .arbitrated (s.setLeases_keeps _ (lookLeases_length _ _).trans_le).preserves
  · exact .stay s

theorem execWatchDeadlineReached_runs (k : StreamId) (s : State) : s.Runs (execWatchDeadlineReached k s) := by
  unfold execWatchDeadlineReached
  split
  · exact .arbitrated (s.modTracker_keeps k _).preserves
  · exact .stay s

theorem State.endBurst_preserves (how : BurstEnd) (s : State) : s.Preserves (s.endBurst how) :=
  State.setEngine_preserves (FillEngine.endBurst_jobs_length _ _ _ _).trans_le
    (FillEngine.endBurst_coherent _ _ _ _)

theorem execFillResponse_runs (tag : BitVec 4) (error : Bool) (s : State) : s.Runs (execFillResponse tag error s) := by
  unfold execFillResponse
  split
  · exact .arbitrated (s.endBurst_preserves _)
  · exact .stay s

theorem execBurstTimeout_runs (s : State) : s.Runs (execBurstTimeout s) := by
  unfold execBurstTimeout
  split
  · exact .arbitrated (s.endBurst_preserves _)
  · exact .stay s

/-- Accepting the burst in flight keeps the engine coherent (R195). -/
theorem FillEngine.accept_coherent {e : FillEngine} {b : Burst} (hb : e.state = .running b) (h : e.Coherent) :
    FillEngine.Coherent { e with state := .running { b with accepted := true } } := by
  obtain ⟨hn, hl, hs⟩ := h
  rw [hb] at hs
  exact ⟨hn, hl, hs⟩

theorem execBurstAccepted_runs (s : State) : s.Runs (execBurstAccepted s) := by
  unfold execBurstAccepted
  split
  · rename_i b j js hb hj
    split
    · exact .stay s
    · exact .unarbitrated (.of_parts rfl (fun _ => .refl _) id id (FillEngine.accept_coherent hb) id)
        (State.ArbiterSettled.of_presents_no_more rfl (fun _ => rfl) (fun _ => rfl) (fun r hr => by cases hr)
          (fun e he => he) fun _ => rfl)
  · exact .stay s

/-- A start forms no report (R132, R133). -/
theorem FillEngine.startHead_not_reporting (now : Time) (e : FillEngine) (r : FillReport) :
    (e.startHead now).state ≠ .reporting r := by
  unfold FillEngine.startHead
  split
  · nofun
  · nofun

theorem execQuietEnd_runs (s : State) : s.Runs (execQuietEnd s) := by
  unfold execQuietEnd
  split
  · refine .unarbitrated (State.setEngine_preserves (FillEngine.startHead_jobs_length _ _).trans_le
      (fun ⟨hn, hl, _⟩ => FillEngine.startHead_coherent _ _ hn hl))
      (State.ArbiterSettled.of_presents_no_more rfl (fun _ => rfl) (fun _ => rfl) (fun r hr => ?_) (fun e he => he)
        fun _ => rfl)
    exact absurd hr (FillEngine.startHead_not_reporting _ _ r)
  · exact .stay s

/-! ## Reset -/

theorem State.mapPorts_port (s : State) (f : AgentPort → AgentPort) (p : Port) :
    State.port { s with ports := s.ports.map f } p = f (s.port p) := by
  simp [State.port]

@[simp] theorem State.reset_record (i : RecordId) : State.reset.record i = BufferRecord.reset := by
  simp [State.record, State.reset]

@[simp] theorem State.reset_stream (k : StreamId) : State.reset.stream k = none := by
  simp [State.stream, State.reset]

@[simp] theorem State.reset_tracker (k : StreamId) :
    State.reset.tracker k = Tracker.cleared CadenceParams.lowest := by
  simp [State.tracker, State.reset]

@[simp] theorem State.reset_port (p : Port) : State.reset.port p = AgentPort.reset := by
  simp [State.port, State.reset]

/-- Records that are all UNASSIGNED have no regions to overlap (R2, R16). -/
theorem State.regionsDisjoint_of_reset {s : State} (h : s.records = State.reset.records) : s.RegionsDisjoint := by
  intro i j _ x y hx _
  have hi : s.record i = BufferRecord.reset := by
    rw [State.record, h]
    exact State.reset_record i
  rw [hi] at hx
  cases hx

/-- Every port that device reset writes meets the invariants (R165). -/
theorem AgentPort.deviceReset_preserves (q : AgentPort) : q.Preserves q.deviceReset where
  capacities _ := ⟨Nat.zero_le _, Nat.zero_le _, Nat.zero_le _⟩
  slots _ := ⟨fun _ => rfl, nofun⟩
  session _ := ⟨nofun, fun _ => rfl, nofun⟩

theorem execDeviceReset_runs (s : State) : s.Runs (execDeviceReset s) := by
  have hport : ∀ p, State.port { State.reset with ports := s.ports.map AgentPort.deviceReset, pending := s.pending } p
      = (s.port p).deviceReset := fun p => s.mapPorts_port AgentPort.deviceReset p
  refine .unarbitrated (.of_parts rfl (fun p => ?_) (fun _ => Nat.zero_le _) (fun _ => Nat.zero_le _)
    (fun _ => FillEngine.Coherent.reset) (fun _ => State.regionsDisjoint_of_reset rfl)) (fun _ _ h => ?_)
  · rw [hport]
    exact AgentPort.deviceReset_preserves _
  · refine absurd ?_ (h 0)
    rw [hport]
    rfl

theorem execResetRelease_runs (s : State) : s.Runs (execResetRelease s) := by
  have hport : ∀ p, s.writeTables.port p = { s.port p with expired := [] } := s.mapPorts_port _
  unfold execResetRelease
  split
  · refine .unarbitrated (.of_parts rfl (fun p => ?_) (fun _ => Nat.zero_le _) id id
      (fun _ => State.regionsDisjoint_of_reset rfl)) (State.ArbiterSettled.of_presents_no_more rfl
        (fun p => ?_) (fun p => ?_) (fun r hr => ⟨r, hr⟩) (fun e he => by cases he) fun _ => rfl)
    · change (s.port p).Preserves (s.writeTables.port p)
      rw [hport]
      exact ⟨fun ⟨h1, h2, _⟩ => ⟨h1, h2, Nat.zero_le _⟩, id, id⟩
    · change (s.writeTables.port p).state = _
      rw [hport]
    · change (s.writeTables.port p).request = _
      rw [hport]
  · exact .stay s

/-- A port leaves INIT without a session, as DETACHED asks (R164, R165). -/
theorem AgentPort.leaveInit_preserves (q : AgentPort) : q.Preserves q.leaveInit := by
  unfold AgentPort.leaveInit
  split
  · rename_i h
    exact ⟨id, id, fun ⟨_, h2, h3⟩ => ⟨nofun, fun _ => h2 (.inl h), h3⟩⟩
  · exact .refl q

theorem execInitEnd_runs (s : State) : s.Runs (execInitEnd s) := by
  unfold execInitEnd
  split
  · exact .stay s
  · refine .arbitrated (.of_parts rfl (fun p => ?_) id id id id)
    rw [State.mapPorts_port]
    exact AgentPort.leaveInit_preserves _

/-! ## Every command -/

theorem exec_runs (c : Instr) (s : State) : s.Runs (exec c s) := by
  cases c with
  | submit p edge => exact execSubmit_runs p edge s
  | collect p edge => exact execCollect_runs p edge s
  | status p edge => exact execStatus_runs p edge s
  | notice p edge => exact execNotice_runs p edge s
  | portReset p edge => exact execPortReset_runs p edge s
  | unknownTransaction p code edge => exact execUnknownTransaction_runs p code edge s
  | attach p => exact execAttach_runs p s
  | detach p => exact execDetach_runs p s
  | setNoticeMask p => exact execSetNoticeMask_runs p s
  | openStream p => exact State.runRequest_runs_of_keeps fun f t => openStreamRequest_keeps p f t s
  | closeStream p => exact State.runRequest_runs_of_keeps fun f t => closeStreamRequest_keeps p f t s
  | join p => exact State.runRequest_runs_of_keeps fun f t => joinRequest_keeps p f t s
  | leave p => exact State.runRequest_runs_of_keeps fun f t => leaveRequest_keeps p f t s
  | acquireWrite p => exact State.runRequest_runs_of_keeps fun f t => acquireWriteRequest_keeps p f t s
  | publish p => exact State.runRequest_runs_of_keeps fun f t => publishRequest_keeps p f t s
  | discard p => exact State.runRequest_runs_of_keeps fun f t => discardRequest_keeps p f t s
  | fill p => exact State.runRequest_runs_of_keeps fun f t => fillRequest_keeps p f t s
  | refillFallback p => exact State.runRequest_runs_of_keeps fun f t => refillFallbackRequest_keeps p f t s
  | acquireRead p => exact State.runRequest_runs_of_keeps fun f t => acquireReadRequest_keeps p f t s
  | release p => exact State.runRequest_runs_of_keeps fun f t => releaseRequest_keeps p f t s
  | renew p => exact State.runRequest_runs_of_keeps fun f t => renewRequest_keeps p f t s
  | queryStream p => exact State.runRequest_runs_of_keeps fun f t => queryStreamRequest_keeps p f t s
  | queryBuffer p => exact State.runRequest_runs_of_keeps fun f t => queryBufferRequest_keeps p f t s
  | queryDevice p => exact State.runRequest_runs_of_keeps fun f t => queryDeviceRequest_keeps p f t s
  | unknownRequest p => exact State.runRequest_runs_of_keeps fun _ _ => .refl s
  | forcedDetach p => exact execForcedDetach_runs p s
  | fillReportTaken => exact execFillReportTaken_runs s
  | writeExpiryTaken => exact execWriteExpiryTaken_runs s
  | readExpiryTaken => exact execReadExpiryTaken_runs s
  | cadenceReportTaken k => exact execCadenceReportTaken_runs k s
  | leaseDeadlineReached => exact execLeaseDeadlineReached_runs s
  | watchDeadlineReached k => exact execWatchDeadlineReached_runs k s
  | fillResponse tag error => exact execFillResponse_runs tag error s
  | burstTimeout => exact execBurstTimeout_runs s
  | quietEnd => exact execQuietEnd_runs s
  | deviceReset => exact execDeviceReset_runs s
  | initEnd => exact execInitEnd_runs s
  | burstAccepted => exact execBurstAccepted_runs s
  | resetRelease => exact execResetRelease_runs s

/-! ## Every step -/

/-- Settles O3: every run ends in a next state and leaves the queue to the step. -/
theorem everyCommandCompletes : Obligations.EveryCommandCompletes := by
  unfold Obligations.EveryCommandCompletes
  intro c s
  obtain ⟨u, hu, hpres, -⟩ := (exec_runs c s).next
  exact ⟨u, hu, hpres.pending⟩

/-- An idle step changes the timebase and the queue alone. -/
theorem State.idle_frame (s : State) : ∃ t q, s.idle = { s with timebase := t, pending := q } := by
  simp only [State.idle, State.tick]
  split
  · exact ⟨s.timebase, _, rfl⟩
  · exact ⟨s.timebase + 1, _, rfl⟩

/-- A step lets time pass on an empty queue, or runs the front command on the queue's rest. -/
theorem step_cases {s u : State} (h : step s = .next u) :
    (∃ t q, u = { s with timebase := t, pending := q }) ∨
    ∃ rest, (s.setPending rest).Preserves u ∧ ((s.setPending rest).ArbiterSettled → u.ArbiterSettled) := by
  unfold step at h
  split at h
  · obtain ⟨t, q, hidle⟩ := s.idle_frame
    injection h with h
    exact .inl ⟨t, q, h ▸ hidle⟩
  · rename_i c rest _
    obtain ⟨v, hv, hpres, hsettled⟩ := (exec_runs c (s.setPending rest)).next
    rw [hv] at h
    injection h with h
    exact .inr ⟨rest, h ▸ hpres, h ▸ hsettled⟩

/-- Settles O55: no run fills a table, queue or list beyond its capacity. -/
theorem stepsKeepCapacities : Obligations.StepsKeepCapacities := by
  unfold Obligations.StepsKeepCapacities
  intro s u hs h
  rcases step_cases h with ⟨t, q, rfl⟩ | ⟨rest, hpres, -⟩
  · exact hs
  · exact hpres.capacities hs

/-- Settles O56: regions enter the map by OPEN_STREAM alone, whose descriptors are without conflict. -/
theorem stepsKeepRegionsDisjoint : Obligations.StepsKeepRegionsDisjoint := by
  unfold Obligations.StepsKeepRegionsDisjoint
  intro s u hs h
  rcases step_cases h with ⟨t, q, rfl⟩ | ⟨rest, hpres, -⟩
  · exact hs
  · exact hpres.regions hs

/-- Settles O57: each operation of the engine keeps it coherent. -/
theorem stepsKeepTheEngineCoherent : Obligations.StepsKeepTheEngineCoherent := by
  unfold Obligations.StepsKeepTheEngineCoherent
  intro s u hs h
  rcases step_cases h with ⟨t, q, rfl⟩ | ⟨rest, hpres, -⟩
  · exact hs
  · exact hpres.engine hs

/-- Settles O58: a slot is filled where the other is EMPTY. -/
theorem stepsKeepSlotsExclusive : Obligations.StepsKeepSlotsExclusive := by
  unfold Obligations.StepsKeepSlotsExclusive
  intro s u hs h
  rcases step_cases h with ⟨t, q, rfl⟩ | ⟨rest, hpres, -⟩
  · exact hs
  · exact hpres.slots hs

/-- Settles O59: a session begins and ends with the port's state. -/
theorem stepsKeepSessionsLegal : Obligations.StepsKeepSessionsLegal := by
  unfold Obligations.StepsKeepSessionsLegal
  intro s u hs h
  rcases step_cases h with ⟨t, q, rfl⟩ | ⟨rest, hpres, -⟩
  · exact hs
  · exact hpres.sessions hs

/-- Settles O60: a run that presents an item or frees the core ends with the arbiter's choice. -/
theorem stepsLeaveTheArbiterSettled : Obligations.StepsLeaveTheArbiterSettled := by
  unfold Obligations.StepsLeaveTheArbiterSettled
  intro s u hs h
  rcases step_cases h with ⟨t, q, rfl⟩ | ⟨rest, -, hsettled⟩
  · exact hs
  · exact hsettled hs

/-- Settles O54: at reset the tables are empty, no session is in force and every port is in INIT. -/
theorem resetMeetsTheInvariants : Obligations.ResetMeetsTheInvariants := by
  unfold Obligations.ResetMeetsTheInvariants
  refine ⟨⟨Nat.zero_le _, Nat.zero_le _, fun p => ?_⟩, State.regionsDisjoint_of_reset rfl, FillEngine.Coherent.reset,
    fun p => ?_, fun p => ?_, fun _ h => ?_⟩
  · rw [State.reset_port]
    exact ⟨Nat.zero_le _, Nat.zero_le _, Nat.zero_le _⟩
  · rw [State.reset_port]
    exact ⟨fun _ => rfl, nofun⟩
  · rw [State.reset_port]
    exact ⟨nofun, fun _ => rfl, nofun⟩
  · refine absurd ?_ (h 0)
    rw [State.reset_port]
    rfl

/-- Settles O1: the step's own case for a queue that is not empty. -/
theorem stepRunsTheFrontCommand : Obligations.StepRunsTheFrontCommand := by
  unfold Obligations.StepRunsTheFrontCommand
  intro c rest s h
  rw [step, h]
  rfl

end Sys2Proof.Machine
end

section
/-! PROOF. Device reset, reset release, the end of INIT, and the edges of a select line held across the release. -/

namespace Sys2Proof.Machine

/-- Settles O4: each part of `State.reset`, and a port's select line through the reset. -/
theorem deviceResetClearsTheDevice : Obligations.DeviceResetClearsTheDevice := by
  unfold Obligations.DeviceResetClearsTheDevice
  intro s
  refine ⟨_, rfl, State.reset_record, State.reset_stream, rfl, State.reset_tracker, rfl, fun p => ?_, rfl, rfl, rfl,
    rfl, rfl, rfl⟩
  have hport : State.port { State.reset with ports := s.ports.map AgentPort.deviceReset, pending := s.pending } p
      = (s.port p).deviceReset := s.mapPorts_port AgentPort.deviceReset p
  rw [hport]
  refine ⟨?_, rfl⟩
  rw [AgentPort.deviceReset]
  cases (s.port p).select <;> rfl

/-! ## Reset release and the end of INIT (R161, R163, R164) -/

theorem execInitEnd_of_waiting {s : State} (hr : s.resetAsserted = false) (hp : ∃ p, (s.port p).state = .init) :
    exec .initEnd s = .next (State.arbitrate { s with ports := s.ports.map AgentPort.leaveInit }) := by
  have hover : s.initOver = false := by
    rw [← Bool.not_eq_true, s.initOver_iff]
    simpa using hp
  change execInitEnd s = _
  simp [execInitEnd, hr, hover]

theorem execInitEnd_of_over {s : State} (h : s.resetAsserted = true ∨ ∀ p, (s.port p).state ≠ .init) :
    exec .initEnd s = .next s := by
  rw [← s.initOver_iff] at h
  change execInitEnd s = _
  rcases h with h | h <;> simp [execInitEnd, h]

/-! ## The edges of a select line (R165, R168) -/

/-- The falling edge of every transaction is the port's. -/
theorem exec_fall {p : Port} {code : Option Byte} {c : Instr}
    (hc : c ∈ ([.submit p .fall, .collect p .fall, .status p .fall, .notice p .fall, .portReset p .fall,
      .unknownTransaction p code .fall] : List Instr)) (s : State) : exec c s = .next (s.selectFalls p) := by
  simp only [List.mem_cons, List.not_mem_nil, or_false] at hc
  rcases hc with rfl | rfl | rfl | rfl | rfl | rfl <;> rfl

section
variable {s : State} {p : Port}

/-- A code byte under a line that did not fall after the release begins nothing. -/
theorem exec_code_of_not_begin (h : s.mayBegin p = false) {c : Instr}
    (hc : c ∈ ([.submit p .code, .collect p .code, .status p .code, .notice p .code] : List Instr)) :
    exec c s = .next s := by
  simp only [List.mem_cons, List.not_mem_nil, or_false] at hc
  rcases hc with rfl | rfl | rfl | rfl <;> simp [exec, execSubmit, execCollect, execStatus, execNotice, h]

/-- Without a transaction under way, and with none that could begin, a rising edge only raises the line. -/
theorem exec_rise_of_idle (ht : (s.port p).transaction = none) (h : s.mayBegin p = false) {bytes : List Byte} {n : Nat}
    {code : Byte} (hcode : transactionOf code = none) {c : Instr}
    (hc : c ∈ ([.submit p (.rise bytes), .collect p (.rise n), .status p (.rise n), .notice p (.rise n),
      .portReset p (.rise n), .unknownTransaction p none (.rise n),
      .unknownTransaction p (some code) (.rise n)] : List Instr)) : exec c s = .next (s.selectRises p) := by
  simp only [List.mem_cons, List.not_mem_nil, or_false] at hc
  rcases hc with rfl | rfl | rfl | rfl | rfl | rfl | rfl <;>
    simp [exec, execSubmit, execCollect, execStatus, execNotice, execPortReset, execUnknownTransaction, h, ht, hcode]

end

/-- Settles O5: the release and the end of INIT by the condition of each, the edges by the line's level. -/
theorem releaseAndInitStartTheDevice : Obligations.ReleaseAndInitStartTheDevice := by
  unfold Obligations.ReleaseAndInitStartTheDevice
  intro s
  refine ⟨fun h => ?release, fun h => ?released, fun hr hp => ?init, execInitEnd_of_over, fun p code c hc => ?fall,
    fun p hs ht => ?held⟩
  case release =>
    refine ⟨{ s.writeTables with resetAsserted := false, timebase := 0 }, ?_, rfl, rfl, State.reset_record,
      State.reset_stream, rfl, fun p => s.mapPorts_port _ p, rfl⟩
    change execResetRelease s = _
    rw [execResetRelease, if_pos h]
  case released =>
    change execResetRelease s = _
    rw [execResetRelease, if_neg (by simp [h])]
  case init =>
    refine ⟨_, execInitEnd_of_waiting hr hp, fun p => ?_, rfl⟩
    rw [State.mapPorts_port]
    rfl
  case fall =>
    rw [exec_fall hc]
    exact ⟨fun h => by rw [State.selectFalls_of_high h], fun h => by rw [State.selectFalls_of_not_high h]⟩
  case held =>
    have hbegin : s.mayBegin p = false := State.mayBegin_of_not_low (by simp [hs])
    refine ⟨fun c hc => exec_code_of_not_begin hbegin hc, fun bytes n code hcode c hc => ?_⟩
    rw [exec_rise_of_idle ht hbegin ((transactionOf_eq_none_iff code).2 hcode) hc, State.selectRises_of_idle ht]

end Sys2Proof.Machine
end

section
/-! PROOF. The five transactions and the codes that are none of them: what a code byte starts, what goes out on SDO,
and what the rising edge makes of the port. -/

namespace Sys2Proof.Machine

/-- What an agent clocks out of a copy, byte by byte (R168). -/
theorem shiftedOut_eq_clockedOut (copy : List Byte) (n : Nat) : shiftedOut copy n = clockedOut copy n := by
  refine List.ext_getElem (by simp [shiftedOut, clockedOut]) fun j h1 h2 => ?_
  have hj : j < n := by simpa [clockedOut] using h2
  by_cases hc : j < copy.length
  · simp [shiftedOut, clockedOut, List.getElem_append_left hc, List.getD_eq_getElem?_getD, hc]
  · simp [shiftedOut, clockedOut, List.getElem_append_right (Nat.not_lt.1 hc), List.getD_eq_getElem?_getD,
      List.getElem?_eq_none (Nat.not_lt.1 hc)]

section
variable {s : State} {p : Port}

/-! ## SUBMIT (R169, R170) -/

theorem bytesOfNat_two (n : Nat) : bytesOfNat 2 n = [BitVec.ofNat 8 (n / 256), BitVec.ofNat 8 n] := by
  simp [bytesOfNat]

theorem fieldAt_two (front : List Byte) (a b : Byte) : fieldAt (front ++ [a, b]) front.length 2 = a.toNat * 256 + b.toNat := by
  simp [fieldAt, natOfBytes]

/-- Two bytes spell a 16-bit value exactly when they are its bytes. -/
theorem ofNat_two_bytes (x : BitVec 16) (a b : Byte) :
    x = BitVec.ofNat 16 (a.toNat * 256 + b.toNat) ↔ [a, b] = bytesOfNat 2 x.toNat := by
  have ha := a.isLt
  have hb := b.isLt
  have hx := x.isLt
  rw [bytesOfNat_two]
  simp only [List.cons.injEq, and_true, ← BitVec.toNat_inj, BitVec.toNat_ofNat]
  omega

theorem frameBody_length (code session : Byte) (payload : List Byte) :
    (frameBody code session payload).length = payload.length + 3 := by
  simp [frameBody]

theorem withCrc_length (bytes : List Byte) : (withCrc bytes).length = bytes.length + 2 := by
  simp [withCrc, bytesOfNat_two]

/-- A frame passes the checks exactly when it is a body of at most 112 payload bytes and its CRC (R170). -/
theorem checkedFrame_eq_some_iff (bytes : List Byte) (f : RequestFrame) :
    checkedFrame bytes = some f ↔
      f.payload.length ≤ 112 ∧ bytes = withCrc (frameBody f.code f.session f.payload) := by
  constructor
  · intro h
    unfold checkedFrame at h
    split at h
    · rename_i code session length rest
      split at h
      · rename_i hchecks
        simp only [Bool.and_eq_true, decide_eq_true_eq] at hchecks
        obtain ⟨⟨hmax, hlen⟩, hcrc⟩ := hchecks
        cases h
        obtain ⟨payload, crc, rfl, hp⟩ : ∃ payload crc, rest = payload ++ crc ∧ payload.length = length.toNat :=
          ⟨_, _, (List.take_append_drop length.toNat rest).symm, by rw [List.length_take]; omega⟩
        obtain ⟨a, b, rfl⟩ : ∃ a b, crc = [a, b] := List.length_eq_two.1 (by
          rw [List.length_append] at hlen
          omega)
        have hbyte : BitVec.ofNat 8 payload.length = length := by rw [hp, BitVec.ofNat_toNat, BitVec.setWidth_eq]
        rw [← hp] at hcrc ⊢
        have htake : (code :: session :: length :: (payload ++ [a, b])).take (3 + payload.length) =
            frameBody code session payload := by
          rw [Nat.add_comm]
          simp [frameBody, hbyte]
        rw [htake, fieldAt_two, ofNat_two_bytes] at hcrc
        rw [List.take_left' rfl]
        refine ⟨hp ▸ hmax, ?_⟩
        change _ = withCrc (frameBody code session payload)
        rw [withCrc, ← hcrc]
        simp [frameBody, hbyte]
      · cases h
    · cases h
  · rintro ⟨hmax, rfl⟩
    have hbyte : (BitVec.ofNat 8 f.payload.length).toNat = f.payload.length := by
      rw [BitVec.toNat_ofNat]
      omega
    set body := frameBody f.code f.session f.payload with hbody
    obtain ⟨a, b, hab⟩ : ∃ a b, bytesOfNat 2 (crc16 body).toNat = [a, b] := ⟨_, _, bytesOfNat_two _⟩
    have htake : (withCrc body).take (3 + f.payload.length) = body :=
      List.take_left' (by rw [hbody, frameBody_length]; omega)
    have hbytes : withCrc body =
        f.code :: f.session :: BitVec.ofNat 8 f.payload.length :: (f.payload ++ [a, b]) := by
      rw [withCrc, hab]
      rfl
    rw [hbytes] at htake ⊢
    simp only [checkedFrame, hbyte, htake, fieldAt_two, (ofNat_two_bytes _ a b).2 hab.symm]
    simp [hmax, Config.requestPayload]

theorem exec_submit_code (h : s.PortReady p) :
    exec (.submit p .code) s = .next (s.setPort p ((s.port p).begin (.submit (s.port p).accepts))) := by
  simp [exec, execSubmit, State.mayBegin_of_ready h, State.modPort]

theorem exec_submit_rise {accepted : Bool} (h : (s.port p).transaction = some (.submit accepted)) (bytes : List Byte) :
    exec (.submit p (.rise bytes)) s = .next (s.setPort p ((s.port p).endSubmit accepted bytes)).arbitrate := by
  simp [exec, execSubmit, h, State.modPort]

theorem AgentPort.accepts_eq (q : AgentPort) :
    q.accepts = decide ((q.state = .detached ∨ q.state = .attached) ∧ q.request = .empty ∧ q.response = none) := by
  rw [Bool.eq_iff_iff]
  simp [AgentPort.accepts, and_assoc]

end

/-- Settles O6: the decision of R169 at the code byte, the checks of R170 at the rising edge. -/
theorem submitAcceptsChecksAndHolds : Obligations.SubmitAcceptsChecksAndHolds := by
  unfold Obligations.SubmitAcceptsChecksAndHolds
  intro s p
  refine ⟨fun h => ?code, fun bytes ht => ?refused, fun code session payload hl ht => ?held, fun bytes ht hbad => ?bad⟩
  case code =>
    rw [exec_submit_code h, AgentPort.accepts_eq]
    rfl
  case refused =>
    rw [exec_submit_rise ht, List.replicate_succ]
    rfl
  case held =>
    have hframe := (checkedFrame_eq_some_iff _ { code := code, session := session, payload := payload }).2 ⟨hl, rfl⟩
    rw [exec_submit_rise ht]
    simp only [AgentPort.endSubmit, AgentPort.receive, hframe, if_true, AgentPort.rise, withCrc_length,
      frameBody_length]
    rfl
  case bad =>
    have hframe : checkedFrame bytes = none := Option.eq_none_iff_forall_ne_some.2 fun f hf => by
      obtain ⟨hl, hb⟩ := (checkedFrame_eq_some_iff _ _).1 hf
      exact hbad _ _ _ hl hb
    rw [exec_submit_rise ht, List.replicate_succ]
    simp only [AgentPort.endSubmit, AgentPort.receive, hframe, if_true, AgentPort.rise, badFrame]

/-! ## COLLECT (R171) -/

section
variable {s : State} {p : Port}

theorem exec_collect_code (h : s.PortReady p) :
    exec (.collect p .code) s = .next (s.setPort p (s.port p).beginCollect) := by
  simp [exec, execCollect, State.mayBegin_of_ready h, State.modPort]

theorem exec_collect_rise {copy : List Byte} {full : Bool} (h : (s.port p).transaction = some (.collect copy full))
    (n : Nat) :
    exec (.collect p (.rise n)) s = .next (s.setPort p ((s.port p).endCollect copy full n)) := by
  simp [exec, execCollect, h, State.modPort]

end

/-- Settles O7: the copy of the slot or of the EMPTY frame, and the slot emptied behind a whole copy. -/
theorem collectEmptiesTheSlotWhenWhole : Obligations.CollectEmptiesTheSlotWhenWhole := by
  unfold Obligations.CollectEmptiesTheSlotWhenWhole
  intro s p
  refine ⟨fun h => ?code, fun copy full n ht => ?rise⟩
  case code =>
    rw [exec_collect_code h, AgentPort.beginCollect]
    cases (s.port p).response <;> rfl
  case rise =>
    rw [exec_collect_rise ht]
    by_cases hwhole : full = true ∧ copy.length ≤ n <;>
      simp [AgentPort.endCollect, AgentPort.rise, shiftedOut_eq_clockedOut, hwhole]

/-! ## STATUS (R172, R193) -/

section
variable {s : State} {p : Port}

/-- Four flags over a low half read as a number. -/
theorem statusByte_toNat : ∀ (n : Fin 16) (a b c d : Bool),
    (BitVec.ofNat 8 n.val ||| flagBit 4 a ||| flagBit 5 b ||| flagBit 6 c ||| flagBit 7 d).toNat =
      n.val + 16 * a.toNat + 32 * b.toNat + 64 * c.toNat + 128 * d.toNat := by decide

theorem PortState.code_add_lt (x : PortState) (y : RequestSlot) : x.code + 4 * y.code < 16 := by
  cases x <;> cases y <;> simp [PortState.code, RequestSlot.code]

theorem exec_status_code (h : s.PortReady p) :
    exec (.status p .code) s = .next (s.setPort p ((s.port p).beginStatus p)) := by
  simp [exec, execStatus, State.mayBegin_of_ready h, State.modPort]

theorem exec_status_rise {copy : List Byte} {r e : Bool} (h : (s.port p).transaction = some (.status copy r e))
    (n : Nat) : exec (.status p (.rise n)) s = .next (s.setPort p ((s.port p).endStatus copy r e n)) := by
  simp [exec, execStatus, h, State.modPort]

end

/-- Settles O8: the four bytes of R193, and the latches shown cleared behind the whole word. -/
theorem statusShowsThePortAndClearsLatches : Obligations.StatusShowsThePortAndClearsLatches := by
  unfold Obligations.StatusShowsThePortAndClearsLatches
  intro s p
  refine ⟨fun h => ⟨_, exec_status_code h, ?byte⟩, fun copy r e n ht => ?rise⟩
  case byte =>
    refine (statusByte_toNat ⟨_, PortState.code_add_lt _ _⟩ _ _ _ _).trans ?_
    cases (s.port p).state <;> cases (s.port p).request <;> rfl
  case rise =>
    rw [exec_status_rise ht]
    by_cases hwhole : copy.length ≤ n
    · cases r <;> cases e <;> simp [AgentPort.endStatus, AgentPort.rise, shiftedOut_eq_clockedOut, hwhole]
    · simp [AgentPort.endStatus, AgentPort.rise, shiftedOut_eq_clockedOut, hwhole]

/-! ## NOTICE (R173, R187, R188) -/

section
variable {s : State} {p : Port}

theorem exec_notice_code (h : s.PortReady p) :
    exec (.notice p .code) s = .next (s.setPort p (s.port p).beginNotice) := by
  simp [exec, execNotice, State.mayBegin_of_ready h, State.modPort]

theorem exec_notice_rise {copy : List Byte} {transfer : Bool} {tally : Nat} {sum : BitVec 32}
    (h : (s.port p).transaction = some (.notice copy transfer tally sum)) (n : Nat) :
    exec (.notice p (.rise n)) s =
      .next (s.setPort p ((s.port p).endNotice copy transfer tally sum n)) := by
  simp [exec, execNotice, h, State.modPort]

/-- The bytes of a notice record (R193). -/
theorem noticeBytes_some (n : Notice) :
    noticeBytes (some n) = withCrc
      ([n.kind.code, (match n.stream with | none => 0xFF | some k => BitVec.ofNat 8 k.val),
          BitVec.ofNat 8 n.count, (match n.detail with | none => 0 | some _ => 1)] ++
        bytesOfNat 4 n.time.toNat ++ bytesOfNat 4 ((n.detail.getD 0).toNat)) := by
  rw [noticeBytes]
  cases n.stream <;> cases n.detail <;> rfl

/-- What a pop leaves of the queue (R187, R188). -/
theorem AgentPort.popHead_eq (tally : Nat) (sum : BitVec 32) (q : AgentPort) :
    q.popHead tally sum = { q with
      notices := match q.notices with
        | [] => []
        | h :: rest => if tally = 0 then rest else h.keepTally tally sum :: rest } := by
  unfold AgentPort.popHead
  rcases q.notices with _ | ⟨h, rest⟩ <;> split <;> simp_all

end

/-- Settles O9: the copy of the head or of NONE, and the head popped or left with its tally. -/
theorem noticePopsOrKeepsTheHead : Obligations.NoticePopsOrKeepsTheHead := by
  unfold Obligations.NoticePopsOrKeepsTheHead
  intro s p
  refine ⟨fun h => ?code, fun copy transfer tally sum n ht => ?rise⟩
  case code =>
    rw [exec_notice_code h, AgentPort.beginNotice]
    rcases (s.port p).notices with _ | ⟨n, rest⟩
    · rfl
    · rw [List.head?_cons, noticeBytes_some]
      rfl
  case rise =>
    rw [exec_notice_rise ht]
    by_cases hwhole : transfer = true ∧ copy.length ≤ n
    · simp only [AgentPort.endNotice, hwhole, decide_true, Bool.and_self, if_true, and_self, AgentPort.popHead_eq,
        AgentPort.rise, shiftedOut_eq_clockedOut]
      rcases (s.port p).notices with _ | ⟨h, rest⟩
      · rfl
      · simp [Notice.keepTally]
    · simp [AgentPort.endNotice, AgentPort.rise, shiftedOut_eq_clockedOut, hwhole]

/-! ## PORT_RESET and unknown codes (R168, R177, R178, R189) -/

/-- The commands of a code byte that is that of a transaction, and of any other. -/
theorem transactionCommands_of_code (p : Port) (x : TransactionKind) (bytes : List Byte) :
    transactionCommands p x.code bytes =
      match x with
      | .submit => [.submit p .fall, .submit p .code, .submit p (.rise bytes)]
      | .collect => [.collect p .fall, .collect p .code, .collect p (.rise bytes.length)]
      | .status => [.status p .fall, .status p .code, .status p (.rise bytes.length)]
      | .notice => [.notice p .fall, .notice p .code, .notice p (.rise bytes.length)]
      | .portReset => [.portReset p .fall, .portReset p (.rise bytes.length)] := by
  rw [transactionCommands, transactionOf_code]
  cases x <;> rfl

/-- Settles O10: the rising edges by the state of the port and by the code, then the five codes. -/
theorem portResetAndUnknownCodes : Obligations.PortResetAndUnknownCodes := by
  unfold Obligations.PortResetAndUnknownCodes
  refine ⟨fun s p n => ⟨fun h hst => ?reset, fun h hst => ?ignored, fun code h hcode => ?unknown, fun h => ?cut⟩,
    fun p bytes n hn => ?codes⟩
  case reset =>
    have hbegin := State.mayBegin_of_ready h
    have ht : (s.port p).transaction = none := h.2.2
    rcases hst with hst | hst <;> cases hslot : (s.port p).request <;>
      simp [exec, execPortReset, hbegin, State.modPort, AgentPort.rise, hst, AgentPort.enterResetting,
        AgentPort.emptyNotices, ht, hslot, RequestSlot.forceDetach, List.replicate_succ]
  case ignored =>
    have hbegin := State.mayBegin_of_ready h
    have ht : (s.port p).transaction = none := h.2.2
    rcases hst with hst | hst <;>
      simp [exec, execPortReset, hbegin, State.modPort, AgentPort.rise, hst, List.replicate_succ, ht]
  case unknown =>
    have hnone := (transactionOf_eq_none_iff code).2 hcode
    have ht : (s.port p).transaction = none := h.2.2
    simp [exec, execUnknownTransaction, hnone, State.mayBegin_of_ready h, State.modPort, AgentPort.rise,
      List.replicate_succ, ht]
  case cut =>
    rw [← State.selectRises_of_idle h.2.2]
    rfl
  case codes =>
    subst hn
    refine ⟨transactionCommands_of_code p .submit bytes, transactionCommands_of_code p .collect bytes,
      transactionCommands_of_code p .status bytes, transactionCommands_of_code p .notice bytes,
      transactionCommands_of_code p .portReset bytes, fun code hcode => ?_⟩
    rw [transactionCommands, (transactionOf_eq_none_iff code).2 hcode]

end Sys2Proof.Machine
end

section
/-! PROOF. The arbiter: which item it chooses, and what each grant makes of the machine (R150–R153); then the events
of an idle step. -/

namespace Sys2Proof.Machine

/-- An index splits the indexes in order into those below it and the rest. -/
theorem finRange_split {n : Nat} (k : Fin n) : ∃ front back, List.finRange n = front ++ k :: back ∧
    ∀ j ∈ front, j < k := by
  have hk : k.val < (List.finRange n).length := by simp
  refine ⟨(List.finRange n).take k, (List.finRange n).drop (k + 1), ?_, fun j hj => ?_⟩
  · conv_lhs => rw [← List.take_append_drop k.val (List.finRange n)]
    rw [List.drop_eq_getElem_cons hk]
    simp
  · obtain ⟨m, hm, rfl⟩ := List.mem_take_iff_getElem.1 hj
    simp only [List.getElem_finRange, Fin.lt_def, Fin.val_cast]
    omega

/-- The lowest index that a search picks is the one it finds. -/
theorem find_finRange_lowest {n : Nat} {pick : Fin n → Bool} {k : Fin n} (hk : pick k = true)
    (hlow : ∀ j, j < k → pick j = false) : (List.finRange n).find? pick = some k := by
  obtain ⟨front, back, hsplit, hfront⟩ := finRange_split k
  rw [hsplit, List.find?_append, List.find?_eq_none.2 fun j hj => by simp [hlow j (hfront j hj)]]
  simp [hk]

section
variable {s : State}

/-- The grant of the chosen item to a free core (R151, R163). -/
theorem State.arbitrate_of_chosen {i : Item} (hc : s.core = none) (hp : ∀ p, (s.port p).state ≠ .init)
    (h : s.chosenItem = some i) : s.arbitrate = s.grant i := by
  simp [State.arbitrate, hc, s.initOver_iff.2 hp, h]

theorem State.arbitrate_of_busy (h : s.core ≠ none) : s.arbitrate = s := by
  unfold State.arbitrate
  split
  · rfl
  · rename_i hc
    exact absurd hc h

theorem State.arbitrate_of_init (h : ∃ p, (s.port p).state = .init) : s.arbitrate = s := by
  have hover : s.initOver = false := by
    rw [← Bool.not_eq_true, s.initOver_iff]
    simpa using h
  unfold State.arbitrate
  split
  · rfl
  · simp [hover]

theorem State.arbitrate_of_nothing (h : s.chosenItem = none) : s.arbitrate = s := by
  unfold State.arbitrate
  split
  · rfl
  · simp [h]

/-! ## The order of the choice (R151) -/

theorem State.chosenItem_of_report {r : FillReport} (h : s.engine.state = .reporting r) :
    s.chosenItem = some (.fillReport r) := by
  simp [State.chosenItem, State.fillItem, h]

theorem State.chosenItem_of_expiry {front back : List LeaseEntry} {e : LeaseEntry}
    (hreport : ∀ r, s.engine.state ≠ .reporting r) (hl : s.leases = front ++ e :: back)
    (hfront : ∀ x ∈ front, x.marked = false) (he : e.marked = true) : s.chosenItem = some (.leaseExpiry e) := by
  have hfind : s.leases.find? LeaseEntry.marked = some e := by
    rw [hl, List.find?_append, List.find?_eq_none.2 fun x hx => by simp [hfront x hx]]
    simp [he]
  simp [State.chosenItem, s.fillItem_eq_none_iff.2 hreport, State.leaseItem, hfind]

theorem State.chosenItem_of_cadence {k : StreamId} (hreport : ∀ r, s.engine.state ≠ .reporting r)
    (hlease : ∀ e ∈ s.leases, e.marked = false) (hk : (s.tracker k).late ≠ 0 ∨ (s.tracker k).change ≠ none)
    (hlow : ∀ j, j < k → (s.tracker j).late = 0 ∧ (s.tracker j).change = none) :
    s.chosenItem = some (.cadenceReport k (s.tracker k).late (s.tracker k).change (s.tracker k).interval) := by
  have hpick : (s.tracker k).hasReport = true := by
    rw [← Bool.not_eq_false, Tracker.hasReport_eq_false_iff]
    tauto
  have hfind : (allStreams.find? fun k => (s.tracker k).hasReport) = some k :=
    find_finRange_lowest hpick fun j hj => ((s.tracker j).hasReport_eq_false_iff).2 (hlow j hj)
  simp [State.chosenItem, s.fillItem_eq_none_iff.2 hreport, s.leaseItem_eq_none_iff.2 hlease, State.cadenceItem, hfind]

theorem State.chosenItem_of_port {d : Fin 6} {i : Item} (hreport : ∀ r, s.engine.state ≠ .reporting r)
    (hlease : ∀ e ∈ s.leases, e.marked = false) (hcadence : ∀ k, (s.tracker k).late = 0 ∧ (s.tracker k).change = none)
    (hlow : ∀ c, c < d → s.portItem (s.pointer + c) = none) (hd : s.portItem (s.pointer + d) = some i) :
    s.chosenItem = some i := by
  have hfind : s.roundRobinItem = some i := by
    obtain ⟨front, back, hsplit, hfront⟩ := finRange_split d
    rw [State.roundRobinItem, portsFrom, allPorts, hsplit, List.map_append, List.findSome?_append,
      List.findSome?_eq_none_iff.2 ?_]
    · simp [hd]
    · intro p hp
      obtain ⟨c, hc, rfl⟩ := List.mem_map.1 hp
      exact hlow c (hfront c hc)
  simp [State.chosenItem, s.fillItem_eq_none_iff.2 hreport, s.leaseItem_eq_none_iff.2 hlease,
    s.cadenceItem_eq_none_iff.2 hcadence, hfind]

/-- The item that a port presents for what its slot holds (R151). -/
def SlotItem.presented (p : Port) : SlotItem → Item
  | .request _ => .request p
  | .forcedDetach => .forcedDetach p

theorem State.portItem_of_held {p : Port} {item : SlotItem} (h : (s.port p).request = .held item) :
    s.portItem p = some (item.presented p) := by
  rw [State.portItem, h]
  cases item <;> rfl

/-- The grant of a HELD slot, whatever it holds (R150, R152). -/
theorem State.grant_held {p : Port} {item : SlotItem} (h : (s.port p).request = .held item) :
    s.grant (item.presented p) =
      { s.setPort p { s.port p with request := .taken item } with
        pointer := p + 1, core := some { item := item.presented p, takenAt := s.timebase } } := by
  have hport : s.grantPort p = (s.setPort p { s.port p with request := .taken item }).setPointer (p + 1) := by
    rw [State.grantPort, State.modPort, h]
    rfl
  cases item <;> exact congrArg (State.setCore _) hport

end

/-- Settles O11: nothing moves without a choice; the choice is the first of the kinds that is presented. -/
theorem arbiterChoosesInOrder : Obligations.ArbiterChoosesInOrder := by
  unfold Obligations.ArbiterChoosesInOrder
  intro s
  refine ⟨fun h => h.elim State.arbitrate_of_busy State.arbitrate_of_init, fun hc hp => ⟨fun r hr => ?report,
    fun hreport => ⟨fun front e back hl hfront he => ?expiry, fun hlease => ⟨fun k hk hlow => ?cadence,
      fun hcadence hheld => ?nothing⟩⟩⟩⟩
  case report =>
    rw [State.arbitrate_of_chosen hc hp (State.chosenItem_of_report hr)]
    rfl
  case expiry =>
    rw [State.arbitrate_of_chosen hc hp (State.chosenItem_of_expiry hreport hl hfront he)]
    rfl
  case cadence =>
    rw [State.arbitrate_of_chosen hc hp (State.chosenItem_of_cadence hreport hlease hk hlow)]
    rfl
  case nothing =>
    exact State.arbitrate_of_nothing (s.chosenItem_eq_none_iff.2 ⟨hreport, hlease, hcadence, hheld⟩)

/-- Settles O12: the search from the pointer stops at the first HELD slot, which the grant takes. -/
theorem roundRobinServesPorts : Obligations.RoundRobinServesPorts := by
  unfold Obligations.RoundRobinServesPorts
  intro s d item hc hp hreport hlease hcadence hlow hd
  have hchosen := State.chosenItem_of_port hreport hlease hcadence
    (fun c hcd => (s.portItem_eq_none_iff _).2 (hlow c hcd)) (State.portItem_of_held hd)
  rw [State.arbitrate_of_chosen hc hp hchosen, State.grant_held hd]
  cases item <;> rfl

/-! ## The events of an idle step (R102, R121, R132, R137, R161, R164) -/

/-- The commands that the block's own clocks raise, apart from the end of an execution. -/
def Instr.isTimed : Instr → Bool
  | .initEnd | .quietEnd | .burstTimeout | .leaseDeadlineReached | .watchDeadlineReached _ => true
  | _ => false

theorem RequestFrame.command_not_timed (f : RequestFrame) (p : Port) : Instr.isTimed (f.command p) = false := by
  unfold RequestFrame.command
  split <;> rfl

/-- The end of an execution is none of the timed events. -/
theorem State.itemCommand_not_timed (s : State) (i : Item) : Instr.isTimed (s.itemCommand i) = false := by
  cases i with
  | request p =>
    simp only [State.itemCommand]
    split
    · exact RequestFrame.command_not_timed _ _
    · rfl
  | forcedDetach p => rfl
  | fillReport r => rfl
  | leaseExpiry e =>
    simp only [State.itemCommand]
    cases e.kind <;> rfl
  | cadenceReport k late change interval => rfl

/-- The timed events that are due, without the end of an execution. -/
def State.timedEvents (s : State) : List Instr :=
  (if s.resetAsserted || s.initOver then [] else [.initEnd]) ++
  (if s.quietOver then [.quietEnd] else []) ++
  (if s.engine.timedOut s.timebase then [.burstTimeout] else []) ++
  (if s.leaseDue then [.leaseDeadlineReached] else []) ++
  ((allStreams.filter fun k => (s.tracker k).due s.timebase).map Instr.watchDeadlineReached)

theorem State.dueEvents_eq (s : State) :
    s.dueEvents = s.timedEvents ++ (match s.core with | none => [] | some x => [s.itemCommand x.item]) := rfl

theorem ite_nodup {α : Type} (b : Bool) (a : α) : (if b then [] else [a]).Nodup ∧ (if b then [a] else []).Nodup := by
  cases b <;> simp

theorem mem_ite_singleton {α : Type} (b : Bool) (a c : α) :
    (c ∈ (if b then [a] else []) ↔ b = true ∧ c = a) ∧ (c ∈ (if b then [] else [a]) ↔ b = false ∧ c = a) := by
  cases b <;> simp

theorem State.mem_timedEvents (s : State) (c : Instr) : c ∈ s.timedEvents ↔
    (c = .initEnd ∧ (s.resetAsserted || s.initOver) = false) ∨ (c = .quietEnd ∧ s.quietOver = true) ∨
    (c = .burstTimeout ∧ s.engine.timedOut s.timebase = true) ∨
    (c = .leaseDeadlineReached ∧ s.leaseDue = true) ∨
    ∃ k, c = .watchDeadlineReached k ∧ (s.tracker k).due s.timebase = true := by
  simp only [State.timedEvents, List.mem_append, mem_ite_singleton, List.mem_map, List.mem_filter, allStreams,
    List.mem_finRange, true_and, or_assoc, and_comm (a := c = _), eq_comm (b := c)]

theorem State.timedEvents_nodup (s : State) : s.timedEvents.Nodup := by
  have hwatch : ((allStreams.filter fun k => (s.tracker k).due s.timebase).map Instr.watchDeadlineReached).Nodup :=
    List.Nodup.map (fun _ _ h => by injection h) ((List.nodup_finRange 16).filter _)
  simp only [State.timedEvents, List.nodup_append, ite_nodup, hwatch, true_and, List.mem_append, mem_ite_singleton,
    List.mem_map]
  refine ⟨⟨⟨?_, ?_⟩, ?_⟩, ?_⟩ <;> rintro a ha b hb rfl <;> simp_all
  all_goals grind

theorem State.timedEvents_timed {s : State} {c : Instr} (h : c ∈ s.timedEvents) : Instr.isTimed c = true := by
  rcases (s.mem_timedEvents c).1 h with ⟨rfl, -⟩ | ⟨rfl, -⟩ | ⟨rfl, -⟩ | ⟨rfl, -⟩ | ⟨k, rfl, -⟩ <;> rfl

theorem State.dueEvents_nodup (s : State) : s.dueEvents.Nodup := by
  rw [State.dueEvents_eq]
  cases s.core with
  | none => simpa using s.timedEvents_nodup
  | some x =>
    refine List.Nodup.append s.timedEvents_nodup (List.nodup_singleton _) (List.disjoint_singleton.2 fun h => ?_)
    have htimed := State.timedEvents_timed h
    rw [State.itemCommand_not_timed] at htimed
    cases htimed

theorem State.quietOver_iff (s : State) : s.quietOver = true ↔
    s.engine.state = .quiet ∧ s.resetAsserted = false ∧ (s.timebase - 1000).toNat < 2 ^ 31 := by
  simp [State.quietOver, reached, and_assoc]

theorem FillEngine.timedOut_iff (e : FillEngine) (now : Time) : e.timedOut now = true ↔
    ∃ b, e.state = .running b ∧ (now - (b.issuedAt + 64)).toNat < 2 ^ 31 := by
  unfold FillEngine.timedOut
  cases e.state <;> simp [reached]

theorem State.leaseDue_iff (s : State) : s.leaseDue = true ↔ (∀ e ∈ s.leases, e.marked = false) ∧
    ∃ e rest, s.leases = e :: rest ∧ (s.timebase - e.deadline).toNat < 2 ^ 31 := by
  unfold State.leaseDue
  cases s.leases <;> simp [reached]

theorem Tracker.due_iff (t : Tracker) (now : Time) : t.due now = true ↔
    ∃ d, t.state = .locked ∧ t.watch = some d ∧ (now - d).toNat < 2 ^ 31 := by
  unfold Tracker.due
  cases t.state <;> cases t.watch <;> simp [reached]

theorem State.initWaits_iff (s : State) : (s.resetAsserted || s.initOver) = false ↔
    s.resetAsserted = false ∧ ∃ p, (s.port p).state = .init := by
  rw [Bool.or_eq_false_iff, ← Bool.not_eq_true s.initOver, s.initOver_iff]
  simp

/-- The events of R161's tick, each by the condition of its rule, and the end of the execution in progress. -/
theorem State.mem_dueEvents (s : State) (c : Instr) : c ∈ s.dueEvents ↔
    (c = .initEnd ∧ s.resetAsserted = false ∧ ∃ p, (s.port p).state = .init) ∨
    (c = .quietEnd ∧ s.engine.state = .quiet ∧ s.resetAsserted = false ∧ (s.timebase - 1000).toNat < 2 ^ 31) ∨
    (c = .burstTimeout ∧ ∃ b, s.engine.state = .running b ∧ (s.timebase - (b.issuedAt + 64)).toNat < 2 ^ 31) ∨
    (c = .leaseDeadlineReached ∧ (∀ e ∈ s.leases, e.marked = false) ∧
      ∃ e rest, s.leases = e :: rest ∧ (s.timebase - e.deadline).toNat < 2 ^ 31) ∨
    (∃ k d, c = .watchDeadlineReached k ∧ (s.tracker k).state = .locked ∧ (s.tracker k).watch = some d ∧
      (s.timebase - d).toNat < 2 ^ 31) ∨
    ∃ x, s.core = some x ∧ c = s.itemCommand x.item := by
  rw [State.dueEvents_eq, List.mem_append, s.mem_timedEvents, s.quietOver_iff, s.engine.timedOut_iff, s.leaseDue_iff,
    s.initWaits_iff]
  simp only [Tracker.due_iff, or_assoc, exists_and_left]
  cases s.core <;> simp

/-- Settles O2: the queue of an idle step is `State.dueEvents` of the state a microsecond later. -/
theorem idleStepPassesAMicrosecond : Obligations.IdleStepPassesAMicrosecond := by
  unfold Obligations.IdleStepPassesAMicrosecond
  intro s h
  refine ⟨s.tick.dueEvents, ?_, s.tick.dueEvents_nodup, ?_⟩
  · rw [step, h]
    simp only [State.idle, State.tick]
    split <;> rfl
  · rintro t rfl c
    have htick : s.tick = { s with timebase := if s.resetAsserted then s.timebase else s.timebase + 1 } := by
      unfold State.tick
      split <;> rfl
    rw [htick, State.mem_dueEvents]
    exact Iff.rfl

end Sys2Proof.Machine
end

section
/-! PROOF. The fill engine: the end of a burst, the starts of a job, the beats of a burst and the answers to a cancel
request (R131–R139, R195). -/

namespace Sys2Proof.Machine

/-! ## The end of a burst (R136–R138) -/

/-- The report of a job with an outcome (R138). -/
def FillJob.reported (j : FillJob) (o : FillOutcome) : EngineState :=
  .reporting { tag := j.tag, index := j.index, kind := j.kind, requester := j.requester, outcome := o }

section
variable {s : State} {e : FillEngine} {b : Burst} {j : FillJob} {js : List FillJob} {now : Time} {base : Address}

/-- A burst that failed ends its job (R136, R137). -/
theorem FillEngine.endBurst_of_failed (hb : e.state = .running b) (hj : e.jobs = j :: js) (cause : FailCause) :
    e.endBurst now base (.failed cause) =
      { e with state :=
          j.reported (if j.cancel then .cancelled else .failed cause (failingOffset b.address base)) } := by
  simp only [FillEngine.endBurst, hb, hj]
  cases j.cancel <;> simp [FillEngine.report, FillJob.reported]

/-- A burst that succeeded ends a flagged job and one whose region is complete; otherwise the next burst follows
(R136, R138). -/
theorem FillEngine.endBurst_of_ok (hb : e.state = .running b) (hj : e.jobs = j :: js) :
    e.endBurst now base .ok =
      if j.cancel = true then
        { e with jobs := { j with next := j.next + 256 } :: js, state := j.reported .cancelled }
      else if j.next + 256 = j.stop then
        { e with jobs := { j with next := j.next + 256 } :: js, state := j.reported .done }
      else FillEngine.issue now (j.next + 256) { e with jobs := { j with next := j.next + 256 } :: js } := by
  simp only [FillEngine.endBurst, hb, hj, FillEngine.report, FillJob.reported, Config.burstBytes]

theorem State.headBase_of_head (hj : s.engine.jobs = j :: js) : s.headBase = (s.record j.index).base := by
  simp [State.headBase, FillEngine.headIndex, hj]

theorem exec_fillResponse_of_match {tag : BitVec 4} (hb : s.engine.state = .running b) (ht : b.tag = tag)
    (hj : s.engine.jobs = j :: js) (error : Bool) :
    exec (.fillResponse tag error) s = .next (State.arbitrate (s.setEngine (s.engine.endBurst s.timebase
      (s.record j.index).base (if error then .failed .error else .ok)))) := by
  simp [exec, execFillResponse, FillEngine.matchesTag, hb, ht, State.endBurst, State.headBase_of_head hj]

theorem exec_fillResponse_of_other {tag : BitVec 4} (h : ∀ b, s.engine.state = .running b → b.tag ≠ tag)
    (error : Bool) : exec (.fillResponse tag error) s = .next s := by
  have hmatch : s.engine.matchesTag tag = false := by
    unfold FillEngine.matchesTag
    cases hs : s.engine.state with
    | running b => simpa using h b hs
    | _ => rfl
  change execFillResponse tag error s = _
  simp [execFillResponse, hmatch]

theorem exec_burstTimeout_of_due (hb : s.engine.state = .running b) (hj : s.engine.jobs = j :: js)
    (hdue : (s.timebase - (b.issuedAt + 64)).toNat < 2 ^ 31) :
    exec .burstTimeout s = .next (State.arbitrate (s.setEngine (s.engine.endBurst s.timebase
      (s.record j.index).base (.failed .timeout)))) := by
  have hdue := (s.engine.timedOut_iff s.timebase).2 ⟨b, hb, hdue⟩
  change execBurstTimeout s = _
  simp [execBurstTimeout, hdue, State.endBurst, State.headBase_of_head hj]

theorem exec_burstTimeout_of_inTime (hb : s.engine.state = .running b)
    (h : 2 ^ 31 ≤ (s.timebase - (b.issuedAt + 64)).toNat) : exec .burstTimeout s = .next s := by
  have hdue : s.engine.timedOut s.timebase = false := by
    rw [← Bool.not_eq_true, FillEngine.timedOut_iff]
    rintro ⟨b', hb', hlt⟩
    rw [hb] at hb'
    cases hb'
    omega
  change execBurstTimeout s = _
  simp [execBurstTimeout, hdue]

end

/-- Settles O49: a response and a timeout end the burst alike; how it ended, the flag and the region decide. -/
theorem burstEndDecidesTheJob : Obligations.BurstEndDecidesTheJob := by
  unfold Obligations.BurstEndDecidesTheJob
  intro s tag
  refine ⟨exec_fillResponse_of_other, fun b hb hin => exec_burstTimeout_of_inTime hb hin, ?_⟩
  rintro b j js _ hb hj rfl _ rfl
  refine ⟨fun ht => ⟨?error, ?_⟩, fun hdue => ?timeout⟩
  case error =>
    rw [exec_fillResponse_of_match hb ht hj, if_pos rfl, FillEngine.endBurst_of_failed hb hj]
    rfl
  case timeout =>
    rw [exec_burstTimeout_of_due hb hj hdue, FillEngine.endBurst_of_failed hb hj]
    rfl
  rintro _ rfl
  rw [exec_fillResponse_of_match hb ht hj, if_neg Bool.false_ne_true, FillEngine.endBurst_of_ok hb hj]
  refine ⟨fun hc => ?_, fun hc hstop => ?_, fun hc hstop => ?_⟩
  · rw [if_pos hc]
    rfl
  · rw [if_neg (by simp [hc]), if_pos hstop]
    rfl
  · rw [if_neg (by simp [hc]), if_neg hstop]
    rfl

/-! ## The starts of a job (R131–R133) -/

theorem exec_quietEnd_of_over {s : State} (hq : s.engine.state = .quiet) (hr : s.resetAsserted = false)
    (h : (s.timebase - 1000).toNat < 2 ^ 31) :
    exec .quietEnd s = .next (s.setEngine (s.engine.startHead s.timebase)) := by
  change execQuietEnd s = _
  rw [execQuietEnd, if_pos (s.quietOver_iff.2 ⟨hq, hr, h⟩)]

theorem exec_quietEnd_of_quiet {s : State} (h : 2 ^ 31 ≤ (s.timebase - 1000).toNat) : exec .quietEnd s = .next s := by
  change execQuietEnd s = _
  rw [execQuietEnd, if_neg fun hover => ?_]
  have hlt := (s.quietOver_iff.1 hover).2.2
  omega

/-- The search for a tag stops at once where the counter's value is free (R131). -/
theorem FillEngine.nextTag_of_free {e : FillEngine} (h : ∀ x ∈ e.jobs, x.tag ≠ e.tagCounter) :
    e.nextTag = e.tagCounter := by
  have hany : (e.jobs.any fun j => decide (j.tag = e.tagCounter)) = false := by simpa using h
  simp [FillEngine.nextTag, freshTag, hany]

theorem FillEngine.startHead_of_empty (now : Time) {e : FillEngine} (h : e.jobs = []) :
    e.startHead now = { e with state := .standby } := by
  simp [FillEngine.startHead, h]

theorem FillEngine.startHead_of_head (now : Time) {e : FillEngine} {j : FillJob} {js : List FillJob}
    (h : e.jobs = j :: js) :
    e.startHead now = { e with
      jobs := { j with next := j.start } :: js
      state := .running { address := j.start, tag := e.burstCounter, issuedAt := now, accepted := false }
      burstCounter := e.burstCounter + 1 } := by
  simp [FillEngine.startHead, h, FillEngine.issue]

/-- Outside STANDBY a submitted job waits at the tail (R131). -/
theorem FillEngine.submit_of_busy (now : Time) (o : FillOrder) {e : FillEngine} (h : e.state ≠ .standby) :
    e.submit now o = { e with jobs := e.jobs ++ [o.job e.nextTag], tagCounter := e.nextTag + 1 } := by
  unfold FillEngine.submit
  split
  · exact absurd ‹_› h
  · rfl

theorem FillEngine.submit_of_standby (now : Time) (o : FillOrder) {e : FillEngine} (h : e.state = .standby) :
    e.submit now o =
      FillEngine.startHead now { e with jobs := e.jobs ++ [o.job e.nextTag], tagCounter := e.nextTag + 1 } := by
  simp [FillEngine.submit, h]

/-- Settles O50: the end of QUIET starts the head, and a submission in STANDBY the job itself. -/
theorem jobsStartFromQuietAndStandby : Obligations.JobsStartFromQuietAndStandby := by
  unfold Obligations.JobsStartFromQuietAndStandby
  refine ⟨fun s hq hr => ⟨fun hover => ⟨fun hj => ?_, fun j js hj => ?_⟩, exec_quietEnd_of_quiet⟩, ?submission⟩
  · rw [exec_quietEnd_of_over hq hr hover, FillEngine.startHead_of_empty _ hj]
  · rw [exec_quietEnd_of_over hq hr hover, FillEngine.startHead_of_head _ hj]
  case submission =>
    rintro e now o j hroom rfl
    refine ⟨e.nextTag_fresh hroom.le, FillEngine.nextTag_of_free, FillEngine.submit_of_busy now o, fun hs hj => ?_⟩
    rw [FillEngine.submit_of_standby now o hs]
    exact FillEngine.startHead_of_head (j := o.job e.nextTag) (js := []) now (by simp [hj])

/-! ## The beats of a burst (R134, R195) -/

/-- A repeated block reads the same in each of its copies. -/
theorem getElem?_flatten_replicate {α : Type} (m : Nat) (l : List α) (n : Nat) (h : n < m * l.length) :
    (List.replicate m l).flatten[n]? = l[n % l.length]? := by
  induction m generalizing n with
  | zero => simp at h
  | succ m ih =>
    rw [List.replicate_succ, List.flatten_cons]
    by_cases hn : n < l.length
    · rw [List.getElem?_append_left hn, Nat.mod_eq_of_lt hn]
    · have hle := Nat.not_lt.1 hn
      rw [List.getElem?_append_right hle, ih (n - l.length) (by rw [Nat.succ_mul] at h; omega), Nat.mod_eq_sub_mod hle]

theorem bytesOfNat_four (x : BitVec 32) :
    bytesOfNat 4 x.toNat =
      [(x >>> 24).setWidth 8, (x >>> 16).setWidth 8, (x >>> 8).setWidth 8, x.setWidth 8] := by
  simp only [bytesOfNat, List.cons.injEq, and_true, ← BitVec.toNat_inj, BitVec.toNat_ofNat, BitVec.toNat_setWidth,
    BitVec.toNat_ushiftRight, Nat.shiftRight_eq_div_pow]
  omega

/-- A beat holds the pattern twice, the most significant byte first. -/
theorem patternBeat_getElem? (x : BitVec 32) (n : Fin 8) :
    (bytesOfNat 4 x.toNat ++ bytesOfNat 4 x.toNat)[n.val]? = some ((x >>> (24 - 8 * (n.val % 4))).setWidth 8) := by
  rw [bytesOfNat_four]
  fin_cases n <;> rfl

theorem patternBeats_getElem? (x : BitVec 32) {n : Nat} (h : n < 256) :
    (patternBeats x).flatten[n]? = some ((x >>> (24 - 8 * (n % 4))).setWidth 8) := by
  have hlen : (bytesOfNat 4 x.toNat ++ bytesOfNat 4 x.toNat).length = 8 := by rw [bytesOfNat_four]; rfl
  rw [patternBeats, getElem?_flatten_replicate _ _ _ (by omega), hlen]
  refine (patternBeat_getElem? x ⟨n % 8, Nat.mod_lt _ (by decide)⟩).trans ?_
  rw [Nat.mod_mod_of_dvd n (by decide : 4 ∣ 8)]

theorem patternBeats_flatten_length (x : BitVec 32) : (patternBeats x).flatten.length = 256 := by
  rw [patternBeats, bytesOfNat_four, List.length_flatten, List.map_replicate, List.sum_replicate]
  rfl

/-- Settles O51: the acceptance of the burst in flight, and the 256 bytes of its beats. -/
theorem acceptedBurstSendsThePattern : Obligations.AcceptedBurstSendsThePattern := by
  unfold Obligations.AcceptedBurstSendsThePattern
  intro s b j js hb hj
  have hexec : exec .burstAccepted s = execBurstAccepted s := rfl
  refine ⟨fun ha => ⟨_, patternBeats j.pattern, ?_, rfl, ?_, rfl, rfl,
    patternBeats_flatten_length _, fun n => patternBeats_getElem? _⟩, fun ha => ?_⟩
  · simp [hexec, execBurstAccepted, hb, hj, ha, State.setEngine]
  · simp [FillEngine.favalid, hb, ha]
  · simp [hexec, execBurstAccepted, hb, hj, ha]

/-! ## A cancel request (R139) -/

theorem FillEngine.isHead_of_started {e : FillEngine} {j : FillJob} {js : List FillJob} (hj : e.jobs = j :: js)
    (h : e.headStarted = true) : e.isHead j.tag = true := by
  simp [FillEngine.isHead, h, hj]

theorem FillEngine.cancel_of_waiting {e : FillEngine} {tag : BitVec 8} (h : e.isHead tag = false) :
    e.cancel tag = (.removed, { e with jobs := e.jobs.filter fun x => x.tag ≠ tag }) := by
  simp [FillEngine.cancel, h]

/-- Settles O52: the head is active or ended, every other job waits. -/
theorem cancelAnswersByThePlace : Obligations.CancelAnswersByThePlace := by
  unfold Obligations.CancelAnswersByThePlace
  intro e j js hj
  refine ⟨?marked, ?ended, fun tag h => FillEngine.cancel_of_waiting ?removed⟩
  case marked =>
    rintro ⟨b, hb⟩
    simp [FillEngine.cancel, FillEngine.isHead_of_started hj (by simp [FillEngine.headStarted, hb]), hb, hj]
  case ended =>
    rintro ⟨r, hr⟩
    simp [FillEngine.cancel, FillEngine.isHead_of_started hj (by simp [FillEngine.headStarted, hr]), hr]
  case removed =>
    rcases h with h | h
    · simp [FillEngine.isHead, hj, Ne.symm h]
    · simp [FillEngine.isHead, FillEngine.headStarted, h]

end Sys2Proof.Machine
end

section
/-! PROOF. The lease timer, a passing watch deadline, and the reports of both as the core takes them (R98–R105, R121,
R122, R127). -/

namespace Sys2Proof.Machine

/-! ## The lease timer (R98, R99, R102) -/

theorem exec_leaseDeadlineReached_of_due {s : State} (h : s.leaseDue = true) :
    exec .leaseDeadlineReached s = .next (s.setLeases (lookLeases s.timebase s.leases)).arbitrate := by
  change execLeaseDeadlineReached s = _
  rw [execLeaseDeadlineReached, if_pos h]

theorem exec_leaseDeadlineReached_of_not_due {s : State} (h : ¬ s.leaseDue = true) :
    exec .leaseDeadlineReached s = .next s := by
  change execLeaseDeadlineReached s = _
  rw [execLeaseDeadlineReached, if_neg h]

/-- The timer marks a due head where no entry is marked. -/
theorem lookLeases_of_due {now : Time} {e : LeaseEntry} {rest : List LeaseEntry}
    (hmarked : ∀ x ∈ e :: rest, x.marked = false) (h : (now - e.deadline).toNat < 2 ^ 31) :
    lookLeases now (e :: rest) = { e with marked := true } :: rest := by
  have hany : (e :: rest).any LeaseEntry.marked = false := List.any_eq_false.2 fun x hx => by simp [hmarked x hx]
  have hdue : reached now e.deadline = true := decide_eq_true h
  simp [lookLeases, hany, hdue]

theorem notLater_iff (d₁ d₂ : Time) : notLater d₁ d₂ = true ↔ (d₂ - d₁).toNat < 2 ^ 31 := by
  simp [notLater]

theorem notLater_eq_false_iff (d₁ d₂ : Time) : notLater d₁ d₂ = false ↔ 2 ^ 31 ≤ (d₂ - d₁).toNat := by
  simp [notLater]

/-- Settles O46: the look at the head, the place of an entry, and the look after a marked entry went. -/
theorem leaseTimerMarksAndPlacesEntries : Obligations.LeaseTimerMarksAndPlacesEntries := by
  unfold Obligations.LeaseTimerMarksAndPlacesEntries
  refine ⟨fun s e rest hl hmarked => ⟨fun hdue => ?due, fun hdue => ?early⟩, fun s h => ?nothing,
    fun e table => ?place, fun now h p table => ⟨_, rfl, ?remove⟩⟩
  case due =>
    rw [exec_leaseDeadlineReached_of_due (s.leaseDue_iff.2 ⟨hmarked, e, rest, hl, hdue⟩), hl,
      lookLeases_of_due (hl ▸ hmarked) hdue]
    rfl
  case early =>
    refine exec_leaseDeadlineReached_of_not_due fun h => ?_
    obtain ⟨-, e', rest', hl', hlt⟩ := s.leaseDue_iff.1 h
    rw [hl] at hl'
    cases hl'
    omega
  case nothing =>
    refine exec_leaseDeadlineReached_of_not_due fun hdue => ?_
    obtain ⟨hmarked, e, rest, hl, -⟩ := s.leaseDue_iff.1 hdue
    rcases h with h | ⟨x, hx, hm⟩
    · simp [h] at hl
    · simp [hmarked x hx] at hm
  case place =>
    obtain ⟨front, back, ht, hi, hf, hb⟩ := insertLease_spec e table
    exact ⟨front, back, ht, hi, fun x hx => (notLater_iff _ _).1 (hf x hx),
      fun x xs hx => (notLater_eq_false_iff _ _).1 (hb x xs hx)⟩
  case remove =>
    have hfilter : (table.filter fun x => !x.isOf h p) =
        table.filter fun x => decide ¬(x.handle = h ∧ x.port = p) :=
      List.filter_congr fun x _ => by simp [LeaseEntry.isOf]
    have hany : (table.any fun x => x.isOf h p && x.marked) = true ↔
        ∃ x ∈ table, x.handle = h ∧ x.port = p ∧ x.marked = true := by
      simp [LeaseEntry.isOf, and_assoc]
    rw [removeLease, hfilter]
    exact if_congr hany rfl rfl

/-! ## A watch deadline (R121, R122) -/

/-- Settles O47: the deadline counts a miss where the timebase has reached it, and the stall count decides which. -/
theorem watchDeadlineCountsAMiss : Obligations.WatchDeadlineCountsAMiss := by
  unfold Obligations.WatchDeadlineCountsAMiss
  rintro s k tr d r rfl hs hw hr
  have hexec : exec (.watchDeadlineReached k) s = execWatchDeadlineReached k s := rfl
  refine ⟨fun hdue => ?_, fun hearly => ?_⟩
  · have hdue := ((s.tracker k).due_iff s.timebase).2 ⟨d, hs, hw, hdue⟩
    rw [hexec, execWatchDeadlineReached, if_pos hdue]
    refine ⟨fun hc => ?_, fun hc => ?_⟩
    · simp [State.modTracker, Tracker.miss, hc, hw, hr, after]
    · simp [State.modTracker, Tracker.miss, Nat.not_lt.2 hc]
  · rw [hexec, execWatchDeadlineReached, if_neg fun hdue => ?_]
    obtain ⟨d', -, hw', hlt⟩ := ((s.tracker k).due_iff s.timebase).1 hdue
    rw [hw] at hw'
    cases hw'
    omega

/-! ## The reports as the core takes them (R103–R105, R127) -/

/-- The notice of an expiry, by the kind of the handle (R105). -/
def HandleKind.expiryNotice : HandleKind → NoticeKind
  | .write => .writeLeaseExpired
  | .read => .readLeaseExpired

/-- Recording an expiry: the handle into the list of 8, then the notice (R105, R106). -/
theorem State.recordExpiry_eq (e : LeaseEntry) (k : StreamId) (s : State) :
    s.recordExpiry e k =
      (s.setPort e.port { s.port e.port with
        expired := (if (s.port e.port).expired.length < 8 then (s.port e.port).expired
          else (s.port e.port).expired.drop 1) ++ [e.handle] }).notify e.port
        e.kind.expiryNotice k (some (BitVec.ofNat 32 e.handle.toNat)) := by
  have hlist : AgentPort.recordExpired e.handle (s.port e.port) = { s.port e.port with
      expired := (if (s.port e.port).expired.length < 8 then (s.port e.port).expired
        else (s.port e.port).expired.drop 1) ++ [e.handle] } := by
    by_cases h : (s.port e.port).expired.length < 8
    · rw [AgentPort.recordExpired, if_neg (Nat.not_le.2 h), if_pos h]
    · rw [AgentPort.recordExpired, if_pos (Nat.not_lt.1 h), if_neg h]
  rw [State.recordExpiry, State.modPort, hlist, BitVec.ofNat_toNat]
  rfl

/-- Settles O44: the reclamation by the kind of the entry, then the record of it. -/
theorem expiryReclaimsAndRecords : Obligations.ExpiryReclaimsAndRecords := by
  unfold Obligations.ExpiryReclaimsAndRecords
  intro s e t a u hc ha hu
  refine ⟨fun hk hw => ?write, fun hk => ?read⟩
  case write =>
    have hexec : exec .writeExpiryTaken s = .next ((s.endWriting e.index a.stream).recordExpiry e a.stream).finish := by
      change execWriteExpiryTaken s = _
      simp [execWriteExpiryTaken, hc, hk, ha, State.reclaimWrite, hw]
    rw [if_pos hk] at hu
    rw [hexec, ← hu, State.recordExpiry_eq, hk]
    rfl
  case read =>
    have hexec : exec .readExpiryTaken s =
        .next (((s.endHold e.index e.port a.stream).completionCheck a.stream).recordExpiry e a.stream).finish := by
      change execReadExpiryTaken s = _
      simp [execReadExpiryTaken, hc, hk, ha]
    rw [if_neg (by simp [hk])] at hu
    rw [hexec, ← hu, State.recordExpiry_eq, hk]
    rfl

/-- Settles O45: each recipient in turn is sent the notices of the report. -/
theorem cadenceReportIsSent : Obligations.CadenceReportIsSent := by
  unfold Obligations.CadenceReportIsSent
  intro s k late change interval t st hc hs
  have hexec : exec (.cadenceReportTaken k) s = .next (s.takeCadence t k late change interval).finish := by
    change execCadenceReportTaken k s = _
    simp [execCadenceReportTaken, hc]
  rw [hexec, State.takeCadence, hs]
  rcases change with _ | _ | _ | _ | _ <;> rfl

end Sys2Proof.Machine
end

section
/-! PROOF. Rules for the requests' bodies: the command that runs a body, updates read back through each other, notices
as changes of the ports alone, and a buffer that becomes FREE (R54, R186). -/

namespace Sys2Proof.Machine

/-! ## The command of a request -/

/-- The command that executes a request of a port. -/
def Request.command (p : Port) : Request → Instr
  | .attach => .attach p
  | .detach => .detach p
  | .setNoticeMask => .setNoticeMask p
  | .openStream => .openStream p
  | .closeStream => .closeStream p
  | .join => .join p
  | .leave => .leave p
  | .acquireWrite => .acquireWrite p
  | .publish => .publish p
  | .discard => .discard p
  | .fill => .fill p
  | .refillFallback => .refillFallback p
  | .acquireRead => .acquireRead p
  | .release => .release p
  | .renew => .renew p
  | .queryStream => .queryStream p
  | .queryBuffer => .queryBuffer p
  | .queryDevice => .queryDevice p

/-- The command of a request under execution ends with what its body answers. -/
theorem exec_of_body {s u : State} {p : Port} {f : RequestFrame} {t : Time} (r : Request) {result : Result}
    {bytes : List Byte} (h : s.Executes p f t) (hk : f.request = some r)
    (hb : r.body p f t s = (u, { result := result, payload := bytes })) :
    exec (r.command p) s = .next (State.respond p f result bytes u).arbitrate := by
  rw [← exec_command_of_body h hk hb, RequestFrame.command, hk]
  cases r <;> rfl

/-! ## Updates -/

theorem State.modStream_of_live {s : State} {k : StreamId} {st : Stream} (h : s.stream k = some st)
    (f : Stream → Stream) : s.modStream k f = s.setStream k (some (f st)) := by
  rw [State.modStream, h]
  rfl

/-- An update that writes what stands there changes nothing. -/
theorem State.setStream_same {s : State} {k : StreamId} {c : Option Stream} (h : s.stream k = c) :
    s.setStream k c = s := by
  subst h
  simp [State.setStream, State.stream]

theorem State.setRecord_same {s : State} {i : RecordId} {r : BufferRecord} (h : s.record i = r) :
    s.setRecord i r = s := by
  subst h
  simp [State.setRecord, State.record]

theorem BufferRecord.toFrame_of_frame {r : BufferRecord} {a : Assignment} {fs : FrameState} (h : r.use = .frame a fs)
    (fs' : FrameState) : r.toFrame fs' = { r with use := .frame a fs' } := by
  simp [BufferRecord.toFrame, h]

theorem nextSequence_eq (n : BitVec 32) : nextSequence n = if n = 4294967295 then 1 else n + 1 := rfl

theorem PortSet.isEmpty_iff (x : PortSet) : x.isEmpty = true ↔ x = PortSet.empty := by simp [PortSet.isEmpty]

@[simp] theorem PortSet.has_empty (p : Port) : PortSet.empty.has p = false := by
  simp [PortSet.has, PortSet.empty]

/-- A set is the set of the ports it has. -/
theorem PortSet.ext_has {x y : PortSet} (h : ∀ p, x.has p = y.has p) : x = y :=
  Vector.ext fun j hj => h ⟨j, hj⟩

theorem PortSet.has_ofList (ps : List Port) (q : Port) : (PortSet.ofList ps).has q = true ↔ q ∈ ps := by
  have hfold : ∀ (ps : List Port) (x : PortSet), (ps.foldl PortSet.add x).has q = true ↔ x.has q = true ∨ q ∈ ps := by
    intro ps
    induction ps with
    | nil => simp
    | cons p ps ih =>
      intro x
      rw [List.foldl_cons, ih, PortSet.has_add]
      simp [or_assoc]
  simpa [PortSet.ofList] using hfold ps PortSet.empty

/-! ## Notices -/

/-- What the sending of notices at a time makes of the ports. -/
def sendEach (now : Time) (ps : List Port) (kind : NoticeKind) (k : StreamId) (detail : Option (BitVec 32))
    (ports : Vector AgentPort 6) : Vector AgentPort 6 :=
  ps.foldl (fun (x : Vector AgentPort 6) (p : Port) => x.set p (x[p].enqueue kind k detail now)) ports

/-- Notices change the ports alone, by the ports and the time alone. -/
theorem State.notifyEach_eq (ps : List Port) (kind : NoticeKind) (k : StreamId) (detail : Option (BitVec 32))
    (s : State) :
    s.notifyEach ps kind k detail = { s with ports := sendEach s.timebase ps kind k detail s.ports } := by
  unfold State.notifyEach sendEach
  induction ps generalizing s with
  | nil => rfl
  | cons p ps ih =>
    rw [List.foldl_cons, ih]
    rfl

@[simp] theorem State.notifyEach_record (ps : List Port) (kind : NoticeKind) (k : StreamId)
    (detail : Option (BitVec 32)) (s : State) (i : RecordId) : (s.notifyEach ps kind k detail).record i = s.record i := by
  rw [State.notifyEach_eq]
  rfl

@[simp] theorem State.notifyEach_stream (ps : List Port) (kind : NoticeKind) (k : StreamId)
    (detail : Option (BitVec 32)) (s : State) (j : StreamId) : (s.notifyEach ps kind k detail).stream j = s.stream j := by
  rw [State.notifyEach_eq]
  rfl

@[simp] theorem State.notify_record (p : Port) (kind : NoticeKind) (k : StreamId) (detail : Option (BitVec 32))
    (s : State) (i : RecordId) : (s.notify p kind k detail).record i = s.record i := rfl

/-! ## A buffer becomes FREE (R54) -/

/-- The state in which a buffer is FREE, before a waiting producer is told. -/
def State.freed (i : RecordId) (k : StreamId) (st : Stream) (s : State) : State :=
  (s.modRecord i (BufferRecord.toFrame .free)).setStream k
    (some { st with free := st.free ++ [i], producerWaiting := false })

theorem State.becomeFree_of_live {s : State} {k : StreamId} {st : Stream} (h : s.stream k = some st) (i : RecordId) :
    s.becomeFree i k =
      if st.producerWaiting = true then
        (s.freed i k st).notify st.producer .bufferAvailable k (some (BitVec.ofNat 32 i.val))
      else s.freed i k st := by
  have hst : (s.modRecord i (BufferRecord.toFrame .free)).stream k = some st := h
  simp only [State.becomeFree, hst]
  rfl

theorem State.becomeFree_of_closed {s : State} {k : StreamId} (h : s.stream k = none) (i : RecordId) :
    s.becomeFree i k = s.modRecord i (BufferRecord.toFrame .free) := by
  have hst : (s.modRecord i (BufferRecord.toFrame .free)).stream k = none := h
  simp only [State.becomeFree, hst]

theorem State.freed_of_frame {s : State} {i : RecordId} {a : Assignment} {fs : FrameState}
    (h : (s.record i).use = .frame a fs) (k : StreamId) (st : Stream) :
    s.freed i k st = { s with
      records := s.records.set i { s.record i with use := .frame a .free }
      streams := s.streams.set k (some { st with free := st.free ++ [i], producerWaiting := false }) } := by
  rw [State.freed, State.modRecord, BufferRecord.toFrame_of_frame h]
  rfl

/-- A buffer that becomes FREE is the one record that changes. -/
theorem State.becomeFree_record (i : RecordId) (k : StreamId) (s : State) (j : RecordId) :
    (s.becomeFree i k).record j = if i = j then (s.record i).toFrame .free else s.record j := by
  cases hs : s.stream k with
  | none => rw [State.becomeFree_of_closed hs, State.modRecord, State.setRecord_record]
  | some st =>
    rw [State.becomeFree_of_live hs, apply_ite (fun u : State => u.record j), State.notify_record, ite_self,
      State.freed, State.setStream_record, State.modRecord, State.setRecord_record]

/-- Settles O33: the free list's tail, then the notice where the producer was waiting. -/
theorem freedBufferJoinsTheFreeList : Obligations.FreedBufferJoinsTheFreeList := by
  unfold Obligations.FreedBufferJoinsTheFreeList
  intro s i k a fs st hu hs
  exact ⟨s.freed i k st, State.freed_of_frame hu k st, State.becomeFree_of_live hs i⟩

end Sys2Proof.Machine
end

section
/-! PROOF. ATTACH and SET_NOTICE_MASK: the masks and enables in range, and the session begun (R174, R175). -/

namespace Sys2Proof.Machine

/-! ## Masks and enables (R174, R191) -/

/-- A word has no bit outside a mask exactly when each of its bits is one of the mask. -/
theorem and_not_eq_zero_iff {w : Nat} (x m : BitVec w) :
    x &&& ~~~m = 0 ↔ ∀ b, x.getLsbD b = true → m.getLsbD b = true := by
  constructor
  · intro h b hb
    have hbit := congrArg (fun y : BitVec w => y.getLsbD b) h
    have hlt := BitVec.lt_of_getLsbD hb
    simpa [hb, hlt] using hbit
  · intro h
    refine BitVec.eq_of_getLsbD_eq fun b hb => ?_
    cases hx : x.getLsbD b
    · simp [hx]
    · simp [hx, h b hx]

/-- The selectors of the notice kinds other than OVERFLOW are bits 1 to 19. -/
theorem selector_getLsbD (b : Nat) : (0x000FFFFE : BitVec 32).getLsbD b = true ↔ 1 ≤ b ∧ b ≤ 19 := by
  by_cases hb : b < 32
  · interval_cases b <;> decide
  · rw [BitVec.getLsbD_of_ge _ _ (Nat.not_lt.1 hb)]
    simp only [Bool.false_eq_true, false_iff]
    omega

theorem enables_getLsbD (b : Nat) : (0x03 : Byte).getLsbD b = true ↔ b ≤ 1 := by
  by_cases hb : b < 8
  · interval_cases b <;> decide
  · rw [BitVec.getLsbD_of_ge _ _ (Nat.not_lt.1 hb)]
    simp only [Bool.false_eq_true, false_iff]
    omega

theorem RequestFrame.masksInRange_iff (f : RequestFrame) :
    (maskInRange f.mask && enablesInRange f.enables) = true ↔
      (∀ b, f.mask.getLsbD b = true → 1 ≤ b ∧ b ≤ 19) ∧ ∀ b, f.enables.getLsbD b = true → b ≤ 1 := by
  simp only [maskInRange, enablesInRange, Bool.and_eq_true, decide_eq_true_eq, and_not_eq_zero_iff, selector_getLsbD,
    enables_getLsbD]

/-- Settles O15: both requests check the mask and the enables; ATTACH begins the next session. -/
theorem attachAndMaskSetTheSession : Obligations.AttachAndMaskSetTheSession := by
  unfold Obligations.AttachAndMaskSetTheSession
  intro s p f t good hx hgood
  rw [← f.masksInRange_iff] at hgood
  refine ⟨fun hk hf => ⟨fun hg => ?attach, fun hg => ?refusedAttach⟩, fun hk hs => ⟨fun hg => ?mask,
    fun hg => ?refusedMask⟩⟩
  case attach =>
    rintro _ rfl
    have hbody := attachRequest_eq p f t s
    rw [if_neg (by simp [hf]), if_pos (hgood.1 hg)] at hbody
    exact exec_of_body .attach hx hk hbody
  case refusedAttach =>
    have hbody := attachRequest_eq p f t s
    rw [if_neg (by simp [hf]), if_neg (mt hgood.2 hg)] at hbody
    exact exec_of_body .attach hx hk hbody
  case mask =>
    have hbody := setNoticeMaskRequest_eq p f t s
    rw [if_neg (by simp [hs.1]), if_neg (not_not.2 hs.2), if_pos (hgood.1 hg)] at hbody
    exact exec_of_body .setNoticeMask hx hk hbody
  case refusedMask =>
    have hbody := setNoticeMaskRequest_eq p f t s
    rw [if_neg (by simp [hs.1]), if_neg (not_not.2 hs.2), if_neg (mt hgood.2 hg)] at hbody
    exact exec_of_body .setNoticeMask hx hk hbody

end Sys2Proof.Machine
end

section
/-! PROOF. ACQUIRE_WRITE (R47–R51): the choice of a buffer, its grant from the head of the free list or from a dropped
frame, and the refusals. -/

namespace Sys2Proof.Machine

section
variable {s : State} {p : Port} {f : RequestFrame} {t : Time} {k : StreamId} {st : Stream} {i : RecordId}

/-! ## The write handle a stream has (R47) -/

theorem State.writingOf_isNone_iff (s : State) (k : StreamId) : (s.writingOf k).isNone = true ↔ s.NoWriter k := by
  simp [State.writingOf, allRecords]

theorem State.not_noWriter {q : Port} (hn : (s.record i).names k = true) (hw : (s.record i).writer = some q) :
    ¬ s.NoWriter k := fun h => by
  rw [h i hn] at hw
  cases hw

theorem State.leaseRefused_eq_false_iff (units : BitVec 16) : s.leaseRefused units = false ↔ s.LeaseRoom units := by
  simp [State.leaseRefused, State.LeaseRoom, Config.leaseEntries, Classical.or_iff_not_imp_left]

/-! ## The choice (R48, R50) -/

theorem State.chooseWrite_of_head {rest : List RecordId} (h : st.free = i :: rest) :
    s.chooseWrite st = some (.head i) := by
  simp [State.chooseWrite, h]

theorem State.chooseWrite_of_victim {front back : List RecordId} (hf : st.free = []) (hp : st.policy = .queue)
    (ho : st.overflow = .dropOldest) (hr : st.ready = front ++ i :: back)
    (hfront : ∀ j ∈ front, (s.record j).unheld = false) (hi : (s.record i).unheld = true) :
    s.chooseWrite st = some (.victim i) := by
  have hfind : st.ready.find? (fun i => (s.record i).unheld) = some i := by
    rw [hr, List.find?_append, List.find?_eq_none.2 fun j hj => by simp [hfront j hj]]
    simp [hi]
  simp [State.chooseWrite, hf, hp, ho, State.victimOf, hfind]

theorem State.chooseWrite_eq_none (hf : st.free = [])
    (h : st.policy = .latest ∨ st.overflow = .block ∨ ∀ i ∈ st.ready, (s.record i).unheld = false) :
    s.chooseWrite st = none := by
  have hvictim : (∀ i ∈ st.ready, (s.record i).unheld = false) → s.victimOf st = none := fun h => by
    simpa [State.victimOf] using h
  rcases h with h | h | h
  · simp [State.chooseWrite, hf, h]
  · simp [State.chooseWrite, hf, h]
  · simp [State.chooseWrite, hf, hvictim h]

theorem State.chooseWrite_isSome (h : st.free ≠ [] ∨ (st.policy = .queue ∧ st.overflow = .dropOldest ∧
    ∃ i ∈ st.ready, (s.record i).unheld = true)) : ∃ c, s.chooseWrite st = some c := by
  cases hf : st.free with
  | cons i rest => exact ⟨_, State.chooseWrite_of_head hf⟩
  | nil =>
    obtain ⟨hp, ho, i, hi, hu⟩ := h.resolve_left (not_not.2 hf)
    obtain ⟨j, hj⟩ := Option.isSome_iff_exists.1
      (List.find?_isSome.2 ⟨i, hi, hu⟩ : (st.ready.find? fun i => (s.record i).unheld).isSome = true)
    exact ⟨.victim j, by simp [State.chooseWrite, hf, hp, ho, State.victimOf, hj]⟩

/-! ## The body (R47, R49) -/

section
variable (hs : s.InSession p f) (hid : f.field 0 1 = k.val) (hst : s.stream k = some st) (ho : st.phase = .opened)
include hs hid hst ho

/-- Of a session in an OPEN stream what is left is the check of the role and the checks behind it. -/
theorem acquireWriteRequest_notProducer (hp : st.producer ≠ p) :
    acquireWriteRequest p f t s = (s, .refuse .notProducer) := by
  simp [acquireWriteRequest, checkSession_of_inSession hs, checkStream_of_live admitsWrite hid hst, admitsWrite, ho,
    answer_check, hp]

variable (hp : st.producer = p)
include hp

theorem acquireWriteRequest_holdLimit (hw : ¬ s.NoWriter k) :
    acquireWriteRequest p f t s = (s, .refuse .holdLimit) := by
  have hw' : ¬ s.writingOf k = none := by rwa [← Option.isNone_iff_eq_none, State.writingOf_isNone_iff]
  simp [acquireWriteRequest, checkSession_of_inSession hs, checkStream_of_live admitsWrite hid hst, admitsWrite, ho,
    answer_check, hp, hw']

variable (hw : s.NoWriter k)
include hw

theorem acquireWriteRequest_noBuffer (hc : s.chooseWrite st = none) :
    acquireWriteRequest p f t s = (s.setStream k (some { st with producerWaiting := true }), .refuse .noBuffer) := by
  have hw' : s.writingOf k = none := by rwa [← Option.isNone_iff_eq_none, State.writingOf_isNone_iff]
  simp [acquireWriteRequest, checkSession_of_inSession hs, checkStream_of_live admitsWrite hid hst, admitsWrite, ho,
    answer_check, hp, hw', hc, State.modStream_of_live hst]

theorem acquireWriteRequest_noLease {c : WriteChoice} (hc : s.chooseWrite st = some c)
    (hl : ¬ s.LeaseRoom st.writeLease) : acquireWriteRequest p f t s = (s, .refuse .noLease) := by
  have hw' : s.writingOf k = none := by rwa [← Option.isNone_iff_eq_none, State.writingOf_isNone_iff]
  rw [← State.leaseRefused_eq_false_iff, Bool.not_eq_false] at hl
  simp [acquireWriteRequest, checkSession_of_inSession hs, checkStream_of_live admitsWrite hid hst, admitsWrite, ho,
    answer_check, hp, hw', hc, hl]

theorem acquireWriteRequest_granted {c : WriteChoice} (hc : s.chooseWrite st = some c)
    (hl : s.LeaseRoom st.writeLease) :
    acquireWriteRequest p f t s = (s.grantWrite p k st c, .ok
      (handleBytes .write c.index ((s.grantWrite p k st c).record c.index) ++
        ([presence 0 (grantedDeadline s.timebase st.writeLease) ||| presence 1 (s.droppedSequence c)] ++
          optionWord (grantedDeadline s.timebase st.writeLease)) ++ optionWord (s.droppedSequence c))) := by
  have hw' : s.writingOf k = none := by rwa [← Option.isNone_iff_eq_none, State.writingOf_isNone_iff]
  rw [← State.leaseRefused_eq_false_iff] at hl
  simp [acquireWriteRequest, checkSession_of_inSession hs, checkStream_of_live admitsWrite hid hst, admitsWrite, ho,
    answer_check, hp, hw', hc, hl]

end

/-- The bytes of a deadline and of a second field, with their presence bits (R189, R191). -/
theorem presence_bytes (now : Time) (units : BitVec 16) (v : Option (BitVec 32)) :
    [presence 0 (grantedDeadline now units) ||| presence 1 v] ++ optionWord (grantedDeadline now units) =
      if units = 0 then (if v.isSome then 2 else 0) :: bytesOfNat 4 0
      else (if v.isSome then 3 else 1) :: bytesOfNat 4 (now + BitVec.ofNat 32 (units.toNat * 100)).toNat := by
  unfold grantedDeadline
  split <;> cases v <;> simp [presence, flagBit, optionWord, optionBytes, leaseDeadline, after]

theorem handleBytes_of_assignment {r : BufferRecord} {a : Assignment} (kind : HandleKind) (i : RecordId)
    (h : r.assignment = some a) :
    handleBytes kind i r =
      bytesOfNat 2 (formHandle kind i r.generation).toNat ++ bytesOfNat 5 a.base.toNat ++ bytesOfNat 4 a.length.toNat := by
  simp [handleBytes, BufferRecord.base, BufferRecord.length, h]

/-! ## The grant (R49) -/

/-- A lease as it is granted: an entry unless it is 0 (R96, R98). -/
theorem State.grantLease_eq (kind : HandleKind) (i : RecordId) (p : Port) (units : BitVec 16) (s : State) :
    s.grantLease kind i p units = s.setLeases (if units = 0 then s.leases
      else insertLease
        { handle := formHandle kind i (s.record i).generation, port := p, index := i, kind := kind
          deadline := s.timebase + BitVec.ofNat 32 (units.toNat * 100), marked := false } s.leases) := by
  unfold State.grantLease
  split <;> rfl

/-- The record, the lease, the waiting flag and the expired-handle list when a frame buffer passes to WRITING. -/
def State.giveWrite (p : Port) (k : StreamId) (st : Stream) (i : RecordId) (s : State) : State :=
  let s := s.modRecord i fun r => (r.toFrame (.writing p)).raise
  let s := s.grantLease .write i p st.writeLease
  let s := s.modStream k fun st => { st with producerWaiting := false }
  s.modPort p (AgentPort.forgetExpired (formHandle .write i (s.record i).generation))

theorem State.grantWrite_head (p : Port) (k : StreamId) (st : Stream) (i : RecordId) (s : State) :
    s.grantWrite p k st (.head i) =
      (s.modStream k fun st => { st with free := st.free.drop 1 }).giveWrite p k st i := rfl

theorem State.grantWrite_victim (p : Port) (k : StreamId) (st : Stream) (i : RecordId) (s : State) :
    s.grantWrite p k st (.victim i) = (s.dropVictim i k st).giveWrite p k st i := rfl

theorem State.giveWrite_eq {u : State} {x : Stream} {a : Assignment} {fs : FrameState} {h : BitVec 16}
    (hx : u.stream k = some x) (hu : (u.record i).use = .frame a fs)
    (hh : h = formHandle .write i ((u.record i).generation + 1)) :
    u.giveWrite p k st i = { u with
      records := u.records.set i
        { u.record i with generation := (u.record i).generation + 1, use := .frame a (.writing p) }
      streams := u.streams.set k (some { x with producerWaiting := false })
      leases := if st.writeLease = 0 then u.leases
        else insertLease
          { handle := h, port := p, index := i, kind := .write
            deadline := u.timebase + BitVec.ofNat 32 (st.writeLease.toNat * 100), marked := false } u.leases
      ports := u.ports.set p { u.port p with expired := (u.port p).expired.filter fun x => x ≠ h } } := by
  subst hh
  have hr : ((u.record i).toFrame (.writing p)).raise =
      { u.record i with generation := (u.record i).generation + 1, use := .frame a (.writing p) } := by
    rw [BufferRecord.toFrame_of_frame hu]
    rfl
  simp only [State.giveWrite, State.modRecord, hr, State.grantLease_eq, State.modStream, State.modPort,
    AgentPort.forgetExpired, State.setRecord_record_self, State.setRecord_stream, State.setRecord_leases,
    State.setRecord_timebase, State.setLeases_stream, State.setLeases_record, State.setStream_record,
    State.setStream_port, State.setLeases_port, State.setRecord_port, hx, Option.map_some]
  rfl

/-- What a record reads once it passed to WRITING. -/
theorem BufferRecord.handleBytes_write {r : BufferRecord} {a : Assignment} {h : BitVec 16}
    (hh : h = formHandle .write i (r.generation + 1)) :
    handleBytes .write i { r with generation := r.generation + 1, use := .frame a (.writing p) } =
      bytesOfNat 2 h.toNat ++ bytesOfNat 5 a.base.toNat ++ bytesOfNat 4 a.length.toNat := by
  subst hh
  exact handleBytes_of_assignment .write i rfl

/-- A record that an update of the table has just written. -/
theorem State.record_set_self (s : State) (i : RecordId) (r : BufferRecord) (streams : Vector (Option Stream) 16)
    (leases : List LeaseEntry) (ports : Vector AgentPort 6) :
    State.record { s with records := s.records.set i r, streams := streams, leases := leases, ports := ports } i = r :=
  s.setRecord_record_self i r

end

/-- Settles O26: the head of the free list is the choice. -/
theorem acquireWriteTakesTheFreeHead : Obligations.AcquireWriteTakesTheFreeHead := by
  unfold Obligations.AcquireWriteTakesTheFreeHead
  intro s p f t k st i rest a fs h d hx hs hk hid hst ho hp hw hf hu hl hh hd
  subst hd
  have hbody := acquireWriteRequest_granted (t := t) hs hid hst ho hp hw (State.chooseWrite_of_head hf) hl
  have hgrant := State.giveWrite_eq (p := p) (st := st)
    (u := s.setStream k (some { st with free := rest })) (s.setStream_stream_self k _) hu hh
  rw [State.grantWrite_head, State.modStream_of_live hst, hf, List.drop_one, List.tail_cons, hgrant] at hbody
  simp only [WriteChoice.index, State.record_set_self, State.setStream_record, BufferRecord.handleBytes_write hh,
    presence_bytes, State.droppedSequence] at hbody
  refine (exec_of_body .acquireWrite hx hk hbody).trans ?_
  simp [State.setStream, optionWord, optionBytes]
  rfl

section
variable {s : State} {p : Port} {k : StreamId} {st : Stream} {i : RecordId} {a : Assignment} {m : FrameStamp}
  {owed : PortSet}

/-- A record owed to a set is owed to its ports. -/
theorem BufferRecord.owedTo_of_ready {r : BufferRecord} {hold : PortSet}
    (h : r.use = .frame a (.ready m (some owed) hold)) : r.owedTo = owed.has := by
  funext q
  simp [BufferRecord.owedTo, BufferRecord.pendingSet, h]

theorem BufferRecord.stamp_of_ready {r : BufferRecord} {o : Option PortSet} {hold : PortSet}
    (h : r.use = .frame a (.ready m o hold)) : r.stamp = some m := by
  simp [BufferRecord.stamp, h]

/-- A dropped victim (R51): the skips and the counter, then FRAME_DROPPED to the consumers owed. -/
theorem State.dropVictim_eq (h : (s.record i).use = .frame a (.ready m (some owed) PortSet.empty)) :
    s.dropVictim i k st = { s with
      streams := s.streams.set k (some { st with
        ready := st.ready.filter fun j => j ≠ i
        consumers := st.consumers.map fun c =>
          if owed.has c.port then { c with skipped := min 65535 (c.skipped + 1) } else c
        dropped := st.dropped + 1 })
      ports := sendEach s.timebase ((st.consumers.map Consumer.port).filter owed.has) .frameDropped k
        (some m.sequence) s.ports } := by
  rw [State.dropVictim, State.notifyEach_eq, Stream.owedPorts, BufferRecord.owedTo_of_ready h,
    BufferRecord.stamp_of_ready h]
  rfl

end

/-- Settles O27: the first unheld ready frame is the choice; its drop comes before the grant. -/
theorem acquireWriteDropsTheOldest : Obligations.AcquireWriteDropsTheOldest := by
  unfold Obligations.AcquireWriteDropsTheOldest
  intro s p f t k st i front back a m owed h d hx hs hk hid hst ho hp hw hf hq hd hr hfront hu hl hh hd'
  subst hd'
  have hunheld : (s.record i).unheld = true := by simp [BufferRecord.unheld, BufferRecord.holdSet, hu, PortSet.isEmpty]
  have hbody := acquireWriteRequest_granted (t := t) hs hid hst ho hp hw
    (State.chooseWrite_of_victim hf hq hd hr hfront hunheld) hl
  have hdrop := State.dropVictim_eq (k := k) (st := st) hu
  have hstream := congrArg (fun u : State => u.stream k) hdrop
  have hrecord : (s.dropVictim i k st).record i = s.record i := by rw [hdrop]; rfl
  have hgrant := State.giveWrite_eq (p := p) (st := st) (u := s.dropVictim i k st)
    (hstream.trans (s.setStream_stream_self k _)) (hrecord ▸ hu) (hrecord ▸ hh)
  rw [hrecord] at hgrant
  rw [State.grantWrite_victim, hgrant] at hbody
  simp only [WriteChoice.index, State.record_set_self, BufferRecord.handleBytes_write hh, presence_bytes,
    State.droppedSequence, BufferRecord.stamp_of_ready hu] at hbody
  rw [hdrop] at hbody
  refine ⟨_, (exec_of_body .acquireWrite hx hk hbody).trans ?_, rfl⟩
  simp [State.notifyEach_eq, optionWord, optionBytes]
  rfl

/-- Settles O28: the checks of R47 in order. -/
theorem acquireWriteRefusals : Obligations.AcquireWriteRefusals := by
  unfold Obligations.AcquireWriteRefusals
  intro s p f t k st hx hs hk hid hst ho
  refine ⟨fun hp => exec_of_body .acquireWrite hx hk (acquireWriteRequest_notProducer (t := t) hs hid hst ho hp),
    fun hp => ⟨?second, fun hw => ⟨?none, ?full⟩⟩⟩
  case second =>
    rintro ⟨i, q, hn, hq⟩
    exact exec_of_body .acquireWrite hx hk
      (acquireWriteRequest_holdLimit (t := t) hs hid hst ho hp (State.not_noWriter hn hq))
  case none =>
    intro hf hno
    exact exec_of_body .acquireWrite hx hk
      (acquireWriteRequest_noBuffer (t := t) hs hid hst ho hp hw (State.chooseWrite_eq_none hf hno))
  case full =>
    intro hsome hlease hfull
    obtain ⟨c, hc⟩ := State.chooseWrite_isSome hsome
    have hroom : ¬ s.LeaseRoom st.writeLease := by
      rintro (h | h)
      · exact hlease h
      · omega
    exact exec_of_body .acquireWrite hx hk (acquireWriteRequest_noLease (t := t) hs hid hst ho hp hw hc hroom)

end Sys2Proof.Machine
end

section
/-! PROOF. PUBLISH (R55–R62): the first actions, and the frame placed by the stream's policy. -/

namespace Sys2Proof.Machine

section
variable {s : State} {p : Port} {f : RequestFrame} {t : Time} {i : RecordId} {a : Assignment} {st : Stream}

/-- A write handle to an OPEN stream passes the steps of PUBLISH, DISCARD and FILL (R13, R14). -/
theorem checkHandle_of_write (hh : f.handle = formHandle .write i (s.record i).generation)
    (hu : (s.record i).use = .frame a (.writing p)) (hst : s.stream a.stream = some st) (ho : st.phase = .opened) :
    checkHandle p f.handle admitsWrite (some .write) s =
      .ok { kind := .write, index := i, streamId := a.stream, stream := st } := by
  obtain ⟨ha, hw⟩ := BufferRecord.writing_reads hu
  exact checkHandle_of_valid hh ha hst (by simp [admitsWrite, ho]) (State.handleValid_write hw) (.inr rfl)

/-! ## The body (R55, R62) -/

theorem publishRequest_pending (hs : s.InSession p f) (hh : f.handle = formHandle .write i (s.record i).generation)
    (hu : (s.record i).use = .frame a (.writing p)) (hst : s.stream a.stream = some st) (ho : st.phase = .opened)
    (hf : (s.record i).fill ≠ .noJob) : publishRequest p f t s = (s, .refuse .fillPending) := by
  simp [publishRequest, checkSession_of_inSession hs, checkHandle_of_write hh hu hst ho, answer_check, hf]

theorem publishRequest_published (hs : s.InSession p f)
    (hh : f.handle = formHandle .write i (s.record i).generation) (hu : (s.record i).use = .frame a (.writing p))
    (hst : s.stream a.stream = some st) (ho : st.phase = .opened) (hf : (s.record i).fill = .noJob) :
    publishRequest p f t s =
      ((s.beginPublish p { kind := .write, index := i, streamId := a.stream, stream := st } t).placeFrame
        { kind := .write, index := i, streamId := a.stream, stream := st }
        { sequence := st.nextSequence, publishTime := t },
      .ok (bytesOfNat 4 st.nextSequence.toNat ++ bytesOfNat 4 t.toNat ++
        [BitVec.ofNat 8 st.consumers.length, flagBit 0 st.unread])) := by
  simp [publishRequest, checkSession_of_inSession hs, checkHandle_of_write hh hu hst ho, answer_check, hf]

/-! ## The first actions (R56) -/

theorem State.beginPublish_eq {h : BitVec 16} (hh : h = formHandle .write i (s.record i).generation)
    (hst : s.stream a.stream = some st) :
    s.beginPublish p { kind := .write, index := i, streamId := a.stream, stream := st } t = { s with
      streams := s.streams.set a.stream (some { st with
        nextSequence := if st.nextSequence = 4294967295 then 1 else st.nextSequence + 1
        published := st.published + 1 })
      trackers := s.trackers.set a.stream ((s.tracker a.stream).publication t)
      leases := removeLease s.timebase h p s.leases } := by
  have hend : (s.endLease h p).stream a.stream = some st := hst
  rw [State.beginPublish, ← hh, State.modStream_of_live hend, nextSequence_eq]
  rfl

theorem State.beginPublish_record (x : HandleTarget) (j : RecordId) :
    (s.beginPublish p x t).record j = s.record j := rfl

theorem State.beginPublish_stream (hst : s.stream a.stream = some st) :
    (s.beginPublish p { kind := .write, index := i, streamId := a.stream, stream := st } t).stream a.stream =
      some { st with
        nextSequence := if st.nextSequence = 4294967295 then 1 else st.nextSequence + 1
        published := st.published + 1 } :=
  (congrArg (fun u : State => u.stream a.stream)
    (State.beginPublish_eq rfl hst)).trans
      (State.setStream_stream_self ..)

/-! ## The placing (R57–R61) -/

theorem Stream.unread_eq_true (hp : st.policy = .queue) (hc : st.consumers = []) : st.unread = true := by
  simp [Stream.unread, hp, hc]

theorem Stream.unread_eq_false (h : st.policy = .latest ∨ st.consumers ≠ []) : st.unread = false := by
  rcases h with h | h <;> simp [Stream.unread, h]

theorem State.placeFrame_of_unread {x : HandleTarget} {m : FrameStamp} (hp : x.stream.policy = .queue)
    (hc : x.stream.consumers = []) : s.placeFrame x m = s.dropUnread x := by
  simp [State.placeFrame, hp, Stream.unread_eq_true hp hc]

theorem State.placeFrame_of_queue {x : HandleTarget} {m : FrameStamp} (hp : x.stream.policy = .queue)
    (hc : x.stream.consumers ≠ []) : s.placeFrame x m = s.placeQueue x m := by
  simp [State.placeFrame, hp, Stream.unread_eq_false (.inr hc)]

theorem State.placeFrame_of_latest {x : HandleTarget} {m : FrameStamp} (hp : x.stream.policy = .latest) :
    s.placeFrame x m = s.placeLatest x m := by
  simp [State.placeFrame, hp]

/-- A frame in a QUEUE stream: the record, the ready list, and the notices. -/
theorem State.placeQueue_eq {x : HandleTarget} {m : FrameStamp} {fs : FrameState}
    (hu : (s.record x.index).use = .frame a fs) (hst : s.stream x.streamId = some st) :
    s.placeQueue x m =
      State.notifyEach (x.stream.consumers.map Consumer.port) .frameAvailable x.streamId (some m.sequence)
        { s with
          records := s.records.set x.index { s.record x.index with
            use := .frame a
              (.ready m (some (PortSet.ofList (x.stream.consumers.map Consumer.port))) PortSet.empty) }
          streams := s.streams.set x.streamId (some { st with ready := st.ready ++ [x.index] }) } := by
  have hlive : ∀ r, (s.setRecord x.index r).stream x.streamId = some st := fun _ => hst
  rw [State.placeQueue, State.modRecord, BufferRecord.toFrame_of_frame hu, State.modStream_of_live (hlive _)]
  rfl

theorem State.dropUnread_eq {x : HandleTarget} {fs : FrameState} (hu : (s.record x.index).use = .frame a fs)
    (hst : s.stream x.streamId = some st) (hw : st.producerWaiting = false) :
    s.dropUnread x = { s with
      records := s.records.set x.index { s.record x.index with use := .frame a .free }
      streams := s.streams.set x.streamId
        (some { st with dropped := st.dropped + 1, free := st.free ++ [x.index] }) } := by
  rw [State.dropUnread, State.modStream_of_live hst, State.becomeFree_of_live (State.setStream_stream_self ..),
    if_neg (by simp [hw]),
    State.freed_of_frame (s := s.setStream x.streamId (some { st with dropped := st.dropped + 1 })) hu]
  simp [State.setStream, hw]
  rfl

theorem State.supersede_of_nil {x : HandleTarget} (h : x.stream.ready = []) : s.supersede x = s := by
  simp [State.supersede, h]

theorem State.supersede_of_cons {x : HandleTarget} {old : RecordId} {rest : List RecordId}
    (h : x.stream.ready = old :: rest) (hst : s.stream x.streamId = some st) :
    s.supersede x = (s.setStream x.streamId (some { st with
      ready := []
      consumers := st.consumers.map fun c =>
        if c.lastDelivered = (s.record old).stamp.map FrameStamp.sequence then c
        else { c with skipped := min 65535 (c.skipped + 1) } })).retire old x.streamId := by
  simp only [State.supersede, h, State.modStream_of_live hst]
  rfl

/-- A record retired is FREE, or DRAINING with its frame. -/
theorem State.retire_of_unheld {k : StreamId} (h : (s.record i).unheld = true) : s.retire i k = s.becomeFree i k := by
  simp [State.retire, h]

theorem State.retire_of_held {k : StreamId} (h : (s.record i).unheld = false) :
    s.retire i k = s.modRecord i BufferRecord.toDraining := by
  simp [State.retire, h]

theorem BufferRecord.toFrame_toFrame (r : BufferRecord) (x y : FrameState) :
    (r.toFrame x).toFrame y = r.toFrame y := by
  cases h : r.use <;> simp [BufferRecord.toFrame, h]

theorem BufferRecord.toFrame_toDraining (r : BufferRecord) (x : FrameState) :
    r.toDraining.toFrame x = r.toFrame x := by
  unfold BufferRecord.toDraining
  split
  · rename_i h
    simp [BufferRecord.toFrame, h]
  · rfl

/-- Whatever a retired record becomes, a frame put into it then is the same. -/
theorem State.toFrame_retire_record (old : RecordId) (k : StreamId) (s : State) (j : RecordId) (fs : FrameState) :
    ((s.retire old k).record j).toFrame fs = (s.record j).toFrame fs := by
  cases h : (s.record old).unheld
  · rw [State.retire_of_held h, State.modRecord, State.setRecord_record]
    split
    · next hj => rw [BufferRecord.toFrame_toDraining, hj]
    · rfl
  · rw [State.retire_of_unheld h, State.becomeFree_record]
    split
    · next hj => rw [BufferRecord.toFrame_toFrame, hj]
    · rfl

/-- The retiring of a superseded frame, by the hold set it reads (R60). -/
theorem State.retire_of_ready {old : RecordId} {k : StreamId} {b : Assignment} {m : FrameStamp} {o : Option PortSet}
    {hold : PortSet} (h : (s.record old).use = .frame b (.ready m o hold)) :
    s.retire old k = if hold = PortSet.empty then s.becomeFree old k
      else s.setRecord old { s.record old with use := .frame b (.draining m hold) } := by
  have hunheld : (s.record old).unheld = decide (hold = PortSet.empty) := by
    simp [BufferRecord.unheld, BufferRecord.holdSet, h, PortSet.isEmpty]
  by_cases hold_empty : hold = PortSet.empty
  · rw [if_pos hold_empty, State.retire_of_unheld (by simp [hunheld, hold_empty])]
  · rw [if_neg hold_empty, State.retire_of_held (by simp [hunheld, hold_empty]), State.modRecord,
      BufferRecord.toDraining]
    simp [h]

/-- The frame of a LATEST stream, over the state the superseded one has left. -/
theorem State.placeLatest_eq {v : State} {x : HandleTarget} {m : FrameStamp} {fs : FrameState}
    (hv : s.supersede x = v) (hrec : ∀ fs, (v.record x.index).toFrame fs = (s.record x.index).toFrame fs)
    (hu : (s.record x.index).use = .frame a fs) :
    s.placeLatest x m =
      State.notifyEach (x.stream.consumers.map Consumer.port) .frameAvailable x.streamId (some m.sequence)
        { v with
          records := v.records.set x.index
            { s.record x.index with use := .frame a (.ready m none PortSet.empty) }
          streams := v.streams.set x.streamId
            ((v.stream x.streamId).map fun st => { st with ready := [x.index] }) } := by
  rw [State.placeLatest, hv, State.modRecord, hrec, BufferRecord.toFrame_of_frame hu]
  rfl

end

/-- Settles O29: FILL_PENDING is the last check; the frame is owed to the consumers' ports. -/
theorem publishQueuesTheFrame : Obligations.PublishQueuesTheFrame := by
  unfold Obligations.PublishQueuesTheFrame
  intro s p f t i a st hx hs hk hh hu hst ho
  refine ⟨fun hf => exec_of_body .publish hx hk (publishRequest_pending (t := t) hs hh hu hst ho hf),
    fun hf hp hc => ⟨PortSet.ofList (st.consumers.map Consumer.port), fun q => ?_, ?_⟩⟩
  · rw [PortSet.has_ofList, List.mem_map]
  · have hbody := publishRequest_published (t := t) hs hh hu hst ho hf
    rw [Stream.unread_eq_false (.inr hc),
      State.placeFrame_of_queue (x := { kind := .write, index := i, streamId := a.stream, stream := st }) hp hc,
      State.placeQueue_eq (by exact hu) (State.beginPublish_stream hst),
      State.beginPublish_record, State.beginPublish_eq hh hst] at hbody
    refine (exec_of_body .publish hx hk hbody).trans ?_
    simp [flagBit]

/-- Settles O30: the record becomes FREE behind the counters. -/
theorem publishUnreadDropsTheFrame : Obligations.PublishUnreadDropsTheFrame := by
  unfold Obligations.PublishUnreadDropsTheFrame
  intro s p f t i a st hx hs hk hh hu hf hst ho hp hc hw
  have hbody := publishRequest_published (t := t) hs hh hu hst ho hf
  rw [Stream.unread_eq_true hp hc,
    State.placeFrame_of_unread (x := { kind := .write, index := i, streamId := a.stream, stream := st }) hp hc,
    State.dropUnread_eq (by exact hu) (State.beginPublish_stream hst) (by exact hw),
    State.beginPublish_record, State.beginPublish_eq hh hst] at hbody
  refine (exec_of_body .publish hx hk hbody).trans ?_
  simp [flagBit, hc]

/-- Settles O31: the superseded frame is retired over the first actions, then the new one is placed. -/
theorem publishSupersedesTheLatest : Obligations.PublishSupersedesTheLatest := by
  unfold Obligations.PublishSupersedesTheLatest
  intro s p f t i a st hx hs hk hh hu hf hst ho hp
  have hbody := publishRequest_published (t := t) hs hh hu hst ho hf
  rw [Stream.unread_eq_false (.inl hp),
    State.placeFrame_of_latest (x := { kind := .write, index := i, streamId := a.stream, stream := st }) hp] at hbody
  have hbegin := State.beginPublish_eq (p := p) (t := t) hh hst
  have hlive := State.beginPublish_stream (p := p) (t := t) (i := i) hst
  cases hr : st.ready with
  | nil =>
    rw [State.placeLatest_eq (State.supersede_of_nil hr) (fun _ => rfl) hu] at hbody
    refine ⟨_, _, exec_of_body .publish hx hk hbody, fun _ => hbegin.trans ?_, fun old b m x h => by simp at h, rfl⟩
    simp [hr]
  | cons old rest =>
    have hold := State.supersede_of_cons (s := s.beginPublish p _ t)
      (x := { kind := .write, index := i, streamId := a.stream, stream := st }) hr hlive
    rw [State.placeLatest_eq hold (fun fs => State.toFrame_retire_record ..) hu] at hbody
    refine ⟨_, _, exec_of_body .publish hx hk hbody, fun h => by simp at h, fun old' b m x h hm => ?_, rfl⟩
    obtain ⟨rfl, rfl⟩ := List.cons.inj h
    refine (State.retire_of_ready (by exact hm)).trans ?_
    rw [hbegin]
    simp [State.setStream]
    rfl

end Sys2Proof.Machine
end

section
/-! PROOF. DISCARD (R64, R65): the end of a write handle by the record's fill and the engine's answer. -/

namespace Sys2Proof.Machine

section
variable {s : State} {i : RecordId} {k : StreamId} {a : Assignment} {tag : BitVec 8} {e : FillEngine}

/-! ## The end of a write handle (R64) -/

theorem State.endWriting_of_noJob (h : (s.record i).fill = .noJob) : s.endWriting i k = s.becomeFree i k := by
  simp [State.endWriting, h]

theorem State.endWriting_of_marked (h : (s.record i).fill = .named tag) (hc : s.engine.cancel tag = (.marked, e)) :
    s.endWriting i k = (s.setEngine e).modRecord i fun r => (r.toFrame .settling).setFill (.cancelling tag) := by
  simp [State.endWriting, h, hc]

theorem State.endWriting_of_unmarked {ans : CancelAnswer} (h : (s.record i).fill = .named tag)
    (hc : s.engine.cancel tag = (ans, e)) (ha : ans ≠ .marked) :
    s.endWriting i k = ((s.setEngine e).modRecord i (BufferRecord.setFill .noJob)).becomeFree i k := by
  simp only [State.endWriting, h, hc]

/-- A frame buffer that has become FREE reads FREE (R194). -/
theorem State.stateCode_becomeFree {fs : FrameState} (h : (s.record i).use = .frame a fs) :
    ((s.becomeFree i k).record i).stateCode = 1 := by
  rw [State.becomeFree_record, if_pos rfl, BufferRecord.toFrame_of_frame h]
  rfl

/-! ## The body (R65) -/

theorem discardRequest_eq {p : Port} {f : RequestFrame} {t : Time} {st : Stream} (hs : s.InSession p f)
    (hh : f.handle = formHandle .write i (s.record i).generation) (hu : (s.record i).use = .frame a (.writing p))
    (hst : s.stream a.stream = some st) (ho : st.phase = .opened) :
    discardRequest p f t s = ((s.endLease f.handle p).endWriting i a.stream,
      .ok [(((s.endLease f.handle p).endWriting i a.stream).record i).stateCode]) := by
  simp [discardRequest, checkSession_of_inSession hs, checkHandle_of_write hh hu hst ho, State.endWriteHandle, ← hh]

end

/-- Settles O32: one case per way the fill stands at the end of the write handle. -/
theorem discardEndsTheWriteHandle : Obligations.DiscardEndsTheWriteHandle := by
  unfold Obligations.DiscardEndsTheWriteHandle
  intro s p f t i a st u hx hs hk hh hu hst ho hu'
  have hbody := discardRequest_eq (t := t) hs hh hu hst ho
  rw [show s.endLease f.handle p = u from hu'.symm] at hbody
  have hrecord : u.record i = s.record i := by rw [hu']; rfl
  have hengine : u.engine = s.engine := by rw [hu']
  refine ⟨fun hf => ?noJob, fun tag e hf hc => ?marked, fun tag ans e hf hc ha => ?unmarked⟩
  case noJob =>
    rw [State.endWriting_of_noJob (hrecord ▸ hf), State.stateCode_becomeFree (hrecord ▸ hu)] at hbody
    exact exec_of_body .discard hx hk hbody
  case marked =>
    have hsettling : (u.setEngine e).modRecord i (fun r => (r.toFrame .settling).setFill (.cancelling tag)) =
        { u with
          engine := e
          records := s.records.set i { s.record i with fill := .cancelling tag, use := .frame a .settling } } := by
      rw [State.modRecord, State.setEngine_record, hrecord, BufferRecord.toFrame_of_frame hu, hu']
      rfl
    have hcode : ((State.record { u with
        engine := e
        records := s.records.set i
          { s.record i with fill := .cancelling tag, use := .frame a .settling } }) i).stateCode = 5 := by
      rw [State.record]
      simp [BufferRecord.stateCode]
    rw [State.endWriting_of_marked (hrecord ▸ hf) (hengine ▸ hc), hsettling, hcode] at hbody
    exact exec_of_body .discard hx hk hbody
  case unmarked =>
    have hnoJob : (u.setEngine e).modRecord i (BufferRecord.setFill .noJob) =
        { u with engine := e, records := s.records.set i { s.record i with fill := .noJob } } := by
      rw [State.modRecord, State.setEngine_record, hrecord, hu']
      rfl
    have hfree : (((u.setEngine e).modRecord i (BufferRecord.setFill .noJob)).record i).use =
        .frame a (.writing p) := by
      rw [State.modRecord, State.setRecord_record_self, State.setEngine_record, hrecord]
      exact hu
    rw [State.endWriting_of_unmarked (hrecord ▸ hf) (hengine ▸ hc) ha, State.stateCode_becomeFree hfree,
      hnoJob] at hbody
    exact exec_of_body .discard hx hk hbody

end Sys2Proof.Machine
end

section
/-! PROOF. FILL and REFILL_FALLBACK (R142–R144): the refusals in order, and the job submitted. -/

namespace Sys2Proof.Machine

section
variable {s : State} {p : Port} {f : RequestFrame} {t : Time} {i : RecordId} {a : Assignment} {st : Stream}
  {k : StreamId}

/-- A submission: the engine, and the tag in the record's fill (R8, R131). -/
theorem State.submitFill_eq {o : FillOrder} (h : o.index = i) :
    s.submitFill o = { s with
      records := s.records.set i { s.record i with fill := .named s.engine.nextTag }
      engine := s.engine.submit s.timebase o } := by
  subst h
  rfl

theorem FillEngine.isFull_eq_false {e : FillEngine} (h : e.jobs.length < 8) : e.isFull = false := by
  simp [FillEngine.isFull, Config.fillJobs, h]

theorem FillEngine.isFull_eq_true {e : FillEngine} (h : 8 ≤ e.jobs.length) : e.isFull = true := by
  simp [FillEngine.isFull, Config.fillJobs, h]

/-! ## FILL (R142, R143) -/

theorem RequestFrame.fillFits_iff (f : RequestFrame) (length : Nat) :
    f.fillFits length = true ↔ f.fillOffset * 256 < length ∧
      (f.fillLength ≠ 0 → (f.fillOffset + f.fillLength) * 256 ≤ length) := by
  simp [RequestFrame.fillFits, ← or_iff_not_imp_left]

theorem fillRequest_outOfRange (hs : s.InSession p f) (h : 262143 < f.fillOffset ∨ 262144 < f.fillLength) :
    fillRequest p f t s = (s, .refuse .badParameter) := by
  have hrange : (decide (f.fillOffset ≤ 262143) && decide (f.fillLength ≤ 262144)) = false := by
    rcases h with h | h <;> simp [h]
  simp [fillRequest, checkSession_of_inSession hs, answer_check, hrange]

theorem BufferRecord.region_of_assignment {r : BufferRecord} (h : r.assignment = some a) :
    r.base = a.base ∧ r.length = a.length := by
  simp [BufferRecord.base, BufferRecord.length, h]

/-- A FILL in range over a write handle: the region, the record's fill and the job queue, in this order. -/
theorem fillRequest_of_write (hs : s.InSession p f) (hoff : f.fillOffset ≤ 262143) (hlen : f.fillLength ≤ 262144)
    (hh : f.handle = formHandle .write i (s.record i).generation) (hu : (s.record i).use = .frame a (.writing p))
    (hst : s.stream a.stream = some st) (ho : st.phase = .opened) :
    fillRequest p f t s =
      if f.fillFits a.length.toNat = false then (s, .refuse .badParameter)
      else if (s.record i).fill ≠ .noJob then (s, .refuse .fillPending)
      else if s.engine.isFull then (s, .refuse .fillQueueFull)
      else (s.submitFill (f.fillOrder i (s.record i) st.producer), .ok [s.engine.nextTag]) := by
  have hregion := BufferRecord.region_of_assignment (BufferRecord.writing_reads hu).1
  cases hfits : f.fillFits a.length.toNat
  · simp [fillRequest, checkSession_of_inSession hs, answer_check, hoff, hlen, checkHandle_of_write hh hu hst ho,
      hregion, hfits]
  · by_cases hf : (s.record i).fill = .noJob
    · cases hfull : s.engine.isFull <;>
        simp [fillRequest, checkSession_of_inSession hs, answer_check, hoff, hlen, checkHandle_of_write hh hu hst ho,
          hregion, hfits, hf, hfull]
    · simp [fillRequest, checkSession_of_inSession hs, answer_check, hoff, hlen, checkHandle_of_write hh hu hst ho,
        hregion, hfits, hf]

/-- The order of a FILL over a record with a region (R143). -/
theorem RequestFrame.fillOrder_of_region (f : RequestFrame) {r : BufferRecord} (h : r.assignment = some a)
    (i : RecordId) (q : Port) :
    f.fillOrder i r q =
      { index := i, kind := .frameFill, requester := q, pattern := BitVec.ofNat 32 (f.field 2 4)
        start := a.base + BitVec.ofNat 40 (f.fillOffset * 256)
        stop := if f.fillLength = 0 then a.base + a.length.setWidth 40
          else a.base + BitVec.ofNat 40 ((f.fillOffset + f.fillLength) * 256) } := by
  obtain ⟨hbase, hlength⟩ := BufferRecord.region_of_assignment h
  rw [RequestFrame.fillOrder, hbase, hlength]

/-! ## REFILL_FALLBACK (R144) -/

theorem refillFallbackRequest_notProducer (hs : s.InSession p f) (hid : f.field 0 1 = k.val)
    (hst : s.stream k = some st) (ho : st.phase = .opened) (hp : st.producer ≠ p) :
    refillFallbackRequest p f t s = (s, .refuse .notProducer) := by
  simp [refillFallbackRequest, checkSession_of_inSession hs, checkStream_of_live admitsWrite hid hst, admitsWrite, ho,
    answer_check, hp]

theorem refillFallbackRequest_noFallback (hs : s.InSession p f) (hid : f.field 0 1 = k.val)
    (hst : s.stream k = some st) (ho : st.phase = .opened) (hp : st.producer = p) (hb : s.fallbackOf k = none) :
    refillFallbackRequest p f t s = (s, .refuse .noFallback) := by
  simp [refillFallbackRequest, checkSession_of_inSession hs, checkStream_of_live admitsWrite hid hst, admitsWrite, ho,
    answer_check, hp, hb]

/-- A REFILL_FALLBACK with a fallback: its holds, its fill and the job queue, in this order. -/
theorem refillFallbackRequest_of_fallback (hs : s.InSession p f) (hid : f.field 0 1 = k.val)
    (hst : s.stream k = some st) (ho : st.phase = .opened) (hp : st.producer = p) (hb : s.fallbackOf k = some i) :
    refillFallbackRequest p f t s =
      if (s.record i).unheld = false then (s, .refuse .fallbackHeld)
      else if (s.record i).fill ≠ .noJob then (s, .refuse .fillPending)
      else if s.engine.isFull then (s, .refuse .fillQueueFull)
      else (s.refillFallback k st i (BitVec.ofNat 32 (f.field 1 4)), .ok [s.engine.nextTag]) := by
  cases hheld : (s.record i).unheld
  · simp [refillFallbackRequest, checkSession_of_inSession hs, checkStream_of_live admitsWrite hid hst, admitsWrite,
      ho, answer_check, hp, hb, hheld]
  · by_cases hf : (s.record i).fill = .noJob
    · cases hfull : s.engine.isFull <;>
        simp [refillFallbackRequest, checkSession_of_inSession hs, checkStream_of_live admitsWrite hid hst,
          admitsWrite, ho, answer_check, hp, hb, hheld, hf, hfull]
    · simp [refillFallbackRequest, checkSession_of_inSession hs, checkStream_of_live admitsWrite hid hst, admitsWrite,
        ho, answer_check, hp, hb, hheld, hf]

theorem State.refillFallback_eq {hold : PortSet} {c : FallbackCondition} (hst : s.stream k = some st)
    (hu : (s.record i).use = .fallback a hold c) (pattern : BitVec 32) :
    s.refillFallback k st i pattern = { s with
      records := s.records.set i
        { s.record i with fill := .named s.engine.nextTag, use := .fallback a hold .filling }
      streams := s.streams.set k (some { st with fallbackPattern := some pattern })
      engine := s.engine.submit s.timebase
        { index := i, kind := .fallbackFill, requester := st.producer, pattern := pattern
          start := a.base, stop := a.base + a.length.setWidth 40 } } := by
  have hrecord : (s.record i).setCondition .filling = { s.record i with use := .fallback a hold .filling } := by
    simp [BufferRecord.setCondition, hu]
  rw [State.refillFallback, State.modStream_of_live hst, State.modRecord, State.setStream_record, hrecord,
    State.submitFill_eq (i := i) rfl, State.setRecord_record_self]
  simp [fallbackOrder, BufferRecord.base, BufferRecord.length, BufferRecord.assignment, State.setRecord,
    State.setStream]

theorem BufferRecord.unheld_of_fallback {r : BufferRecord} {hold : PortSet} {c : FallbackCondition}
    (h : r.use = .fallback a hold c) : r.unheld = decide (hold = PortSet.empty) := by
  simp [BufferRecord.unheld, BufferRecord.holdSet, h, PortSet.isEmpty]

end

/-- Settles O34: each refusal is a branch of the body, and the last branch is the submission. -/
theorem fillRequestsSubmitJobs : Obligations.FillRequestsSubmitJobs := by
  unfold Obligations.FillRequestsSubmitJobs
  intro s p f t hx hs
  refine ⟨fun hk => ⟨fun h => exec_of_body .fill hx hk (fillRequest_outOfRange (t := t) hs h), ?fill⟩,
    fun k st hk hid hst ho => ⟨fun hp => ?notProducer, fun hp hb => ?noFallback, ?refill⟩⟩
  case fill =>
    intro i a st fits hoff hlen hh hu hst ho hfits
    rw [← f.fillFits_iff] at hfits
    have hbody := fillRequest_of_write (t := t) hs hoff hlen hh hu hst ho
    refine ⟨fun hn => ?outside, fun hy hf => ?pending, fun hy hf hj => ?full, fun hy hf hj => ?job⟩
    case outside =>
      rw [if_pos (Bool.eq_false_iff.2 (mt hfits.2 hn))] at hbody
      exact exec_of_body .fill hx hk hbody
    case pending =>
      rw [if_neg (by simp [hfits.1 hy]), if_pos hf] at hbody
      exact exec_of_body .fill hx hk hbody
    case full =>
      rw [if_neg (by simp [hfits.1 hy]), if_neg (not_not.2 hf), if_pos (FillEngine.isFull_eq_true hj)] at hbody
      exact exec_of_body .fill hx hk hbody
    case job =>
      rw [if_neg (by simp [hfits.1 hy]), if_neg (not_not.2 hf), if_neg (by simp [FillEngine.isFull_eq_false hj]),
        RequestFrame.fillOrder_of_region f (BufferRecord.writing_reads hu).1, State.submitFill_eq rfl] at hbody
      exact exec_of_body .fill hx hk hbody
  case notProducer =>
    exact exec_of_body .refillFallback hx hk (refillFallbackRequest_notProducer (t := t) hs hid hst ho hp)
  case noFallback =>
    exact exec_of_body .refillFallback hx hk (refillFallbackRequest_noFallback (t := t) hs hid hst ho hp hb)
  case refill =>
    intro i a hold c hp hb hu
    have hunheld := BufferRecord.unheld_of_fallback hu
    have hbody := refillFallbackRequest_of_fallback (t := t) hs hid hst ho hp hb
    simp only [hunheld, decide_eq_false_iff_not] at hbody
    refine ⟨fun hn => ?held, fun hy hf => ?pending, fun hy hf hj => ?full, fun hy hf hj => ?job⟩
    case held =>
      rw [if_pos hn] at hbody
      exact exec_of_body .refillFallback hx hk hbody
    case pending =>
      rw [if_neg (not_not.2 hy), if_pos hf] at hbody
      exact exec_of_body .refillFallback hx hk hbody
    case full =>
      rw [if_neg (not_not.2 hy), if_neg (not_not.2 hf), if_pos (FillEngine.isFull_eq_true hj)] at hbody
      exact exec_of_body .refillFallback hx hk hbody
    case job =>
      subst hy hp
      rw [if_neg (not_not.2 rfl), if_neg (not_not.2 hf), if_neg (by simp [FillEngine.isFull_eq_false hj]),
        State.refillFallback_eq hst hu] at hbody
      exact exec_of_body .refillFallback hx hk hbody

end Sys2Proof.Machine
end

section
/-! PROOF. ACQUIRE_READ (R69–R81): the checks, the selection by the policy, and what a grant changes. -/

namespace Sys2Proof.Machine

section
variable {s : State} {p : Port} {f : RequestFrame} {t : Time} {k : StreamId} {st : Stream} {e : Consumer}
  {i : RecordId} {a : Assignment} {m : FrameStamp}

/-! ## The body (R69, R79) -/

theorem Stream.consumer_eq_none (h : ∀ c ∈ st.consumers, c.port ≠ p) : st.consumer p = none := by
  simpa [Stream.consumer] using h

theorem Stream.consumer_port (h : st.consumer p = some e) : e.port = p := by
  simpa using List.find?_some h

section
variable (hs : s.InSession p f) (hid : f.field 0 1 = k.val) (hst : s.stream k = some st)
  (ho : st.phase = .opened ∨ st.phase = .orphaned)
include hs hid hst ho

theorem acquireReadRequest_notMember (hc : st.consumer p = none) :
    acquireReadRequest p f t s = (s, .refuse .notMember) := by
  simp [acquireReadRequest, checkSession_of_inSession hs, checkStream_of_live admitsRead hid hst, admitsRead, ho,
    hc]

variable (hc : st.consumer p = some e)
include hc

theorem acquireReadRequest_holdLimit (hl : e.readHolds = e.holdLimit) :
    acquireReadRequest p f t s = (s, .refuse .holdLimit) := by
  simp [acquireReadRequest, checkSession_of_inSession hs, checkStream_of_live admitsRead hid hst, admitsRead, ho,
    hc, hl, answer_check]

variable (hl : e.readHolds ≠ e.holdLimit)
include hl

theorem acquireReadRequest_noFrame (hn : s.selectRead k st e = none) :
    acquireReadRequest p f t s = (s, s.noFrame k st e) := by
  simp [acquireReadRequest, checkSession_of_inSession hs, checkStream_of_live admitsRead hid hst, admitsRead, ho,
    hc, hl, answer_check, hn]

variable {c : ReadChoice} (hn : s.selectRead k st e = some c)
include hn

theorem acquireReadRequest_noLease (hr : ¬ s.LeaseRoom st.readLease) :
    acquireReadRequest p f t s = (s, .refuse .noLease) := by
  rw [← State.leaseRefused_eq_false_iff, Bool.not_eq_false] at hr
  simp [acquireReadRequest, checkSession_of_inSession hs, checkStream_of_live admitsRead hid hst, admitsRead, ho,
    hc, hl, answer_check, hn, hr]

theorem acquireReadRequest_granted (hr : s.LeaseRoom st.readLease) :
    acquireReadRequest p f t s = (s.grantRead p k st c, .ok (s.readPayload k st e c)) := by
  rw [← State.leaseRefused_eq_false_iff] at hr
  simp [acquireReadRequest, checkSession_of_inSession hs, checkStream_of_live admitsRead hid hst, admitsRead, ho,
    hc, hl, answer_check, hn, hr]

end

theorem State.not_leaseRoom {units : BitVec 16} (hu : units ≠ 0) (hl : 128 ≤ s.leases.length) :
    ¬ s.LeaseRoom units := by
  rintro (h | h)
  · exact hu h
  · omega

/-! ## The selection (R71, R74) -/

theorem State.selectQueue_eq_none (h : ∀ i ∈ st.ready, (s.record i).owedTo p = false) :
    s.selectQueue st p = none := by
  simpa [State.selectQueue] using h

theorem State.selectQueue_of_owed {front back : List RecordId} (hr : st.ready = front ++ i :: back)
    (hfront : ∀ j ∈ front, (s.record j).owedTo p = false) (hi : (s.record i).owedTo p = true) :
    s.selectQueue st p = some (.queued i) := by
  rw [State.selectQueue, hr, List.find?_append, List.find?_eq_none.2 fun j hj => by simp [hfront j hj]]
  simp [hi]

theorem State.offeredFallback_of_valid (hb : s.fallbackOf k = some i) (hv : (s.record i).condition = some .valid)
    (h : (s.tracker k).state = .stalled ∨ st.ready = []) : s.offeredFallback k st = some i := by
  rcases h with h | h <;> simp [State.offeredFallback, hb, hv, State.stalled, h]

theorem State.offeredFallback_eq_none (h : ∀ i, s.fallbackOf k = some i →
    (s.record i).condition ≠ some .valid ∨ ((s.tracker k).state ≠ .stalled ∧ st.ready ≠ [])) :
    s.offeredFallback k st = none := by
  refine Option.filter_eq_none_iff.2 fun i hi => ?_
  rcases h i hi with h | h <;> simp [State.stalled, h]

theorem State.selectLatest_of_fallback (h : s.offeredFallback k st = some i) :
    s.selectLatest k st e = some (.fallback i) := by
  simp [State.selectLatest, h]

theorem State.selectLatest_of_empty (h : s.offeredFallback k st = none) (hr : st.ready = []) :
    s.selectLatest k st e = none := by
  simp [State.selectLatest, h, hr]

/-- The ready frame of a LATEST stream, given again only to a consumer that allows repeats. -/
theorem State.selectLatest_of_ready {rest : List RecordId} (h : s.offeredFallback k st = none)
    (hr : st.ready = i :: rest) (hm : (s.record i).stamp = some m) :
    s.selectLatest k st e =
      if e.lastDelivered = some m.sequence then if e.repeatAllowed then some (.latest i true) else none
      else some (.latest i false) := by
  by_cases hd : e.lastDelivered = some m.sequence <;> simp [State.selectLatest, h, hr, hm, hd]

/-! ## The flags and the payload (R78, R79) -/

theorem State.readFlags_toByte (repeated fallback : Bool) :
    (s.readFlags k st repeated fallback).toByte = BitVec.ofNat 8 ((if repeated then 1 else 0) +
      (if fallback then 2 else if (s.tracker k).state = .stalled then 4 else 0) +
      (if st.phase = .orphaned then 8 else 0)) := by
  by_cases hst : (s.tracker k).state = .stalled <;> by_cases ho : st.phase = .orphaned <;>
    cases repeated <;> cases fallback <;> simp [State.readFlags, ReadFlags.toByte, flagBit, State.stalled, hst, ho]

theorem State.noFrame_eq : s.noFrame k st e =
    { result := .noFrame
      payload := BitVec.ofNat 8 ((if (s.tracker k).state = .stalled then 4 else 0) +
        (if st.phase = .orphaned then 8 else 0)) :: bytesOfNat 2 e.skipped } := by
  rw [State.noFrame, State.readFlags_toByte]
  simp

/-- The payload of a grant: the fallback has no stamp to show. -/
theorem State.readPayload_eq {c : ReadChoice} {stamp : Option FrameStamp} {h : BitVec 16} {d : Time}
    (ha : (s.record c.index).assignment = some a)
    (hm : stamp = if c.isFallback then none else (s.record c.index).stamp)
    (hh : h = formHandle .read c.index (s.record c.index).generation)
    (hd : d = s.timebase + BitVec.ofNat 32 (st.readLease.toNat * 100)) :
    s.readPayload k st e c =
      bytesOfNat 2 h.toNat ++ bytesOfNat 5 a.base.toNat ++ bytesOfNat 4 a.length.toNat ++
        optionWord (stamp.map FrameStamp.sequence) ++ optionWord (stamp.map FrameStamp.publishTime) ++
        [(s.readFlags k st c.isRepeat c.isFallback).toByte] ++ bytesOfNat 2 e.skipped ++
        (if st.readLease = 0 then (if stamp.isSome then 2 else 0) :: bytesOfNat 4 0
          else (if stamp.isSome then 3 else 1) :: bytesOfNat 4 d.toNat) := by
  subst hm hh hd
  have hbytes := presence_bytes s.timebase st.readLease
    ((if c.isFallback then none else (s.record c.index).stamp).map FrameStamp.publishTime)
  simp only [Option.isSome_map] at hbytes
  simp only [State.readPayload, handleBytes_of_assignment .read c.index ha, List.append_assoc, hbytes]

/-! ## The grant (R72, R75, R79) -/

/-- A grant, over the record and the stream context that the policy's own actions leave. -/
theorem State.grantRead_eq {x : Stream} {r : BufferRecord} {c : ReadChoice} {seq : Option (BitVec 32)}
    {h : BitVec 16} {d : Time} (htake : s.takeRead p k c = (s.setStream k (some x)).setRecord i r)
    (hg : r.generation = (s.record i).generation) (hseq : s.deliveredSequence c = seq) (hi : c.index = i)
    (hh : h = formHandle .read i (s.record i).generation)
    (hd : d = s.timebase + BitVec.ofNat 32 (st.readLease.toNat * 100)) :
    s.grantRead p k st c = { s with
      records := s.records.set i r
      streams := s.streams.set k (some { x with
        consumers := x.consumers.map fun c => if c.port = p then Consumer.given seq c else c })
      leases := if st.readLease = 0 then s.leases
        else insertLease
          { handle := h, port := p, index := i, kind := .read, deadline := d, marked := false } s.leases
      ports := s.ports.set p { s.port p with expired := (s.port p).expired.filter fun x => x ≠ h } } := by
  subst hh hd hseq hi
  have hlive : ((s.setStream k (some x)).setRecord c.index r).stream k = some x := s.setStream_stream_self k _
  have htwice : ∀ y, ((s.setStream k (some x)).setRecord c.index r).setStream k y =
      (s.setStream k y).setRecord c.index r := fun y => by simp [State.setStream, State.setRecord]
  simp only [State.grantRead, htake, State.modStream_of_live hlive, htwice, State.grantLease_eq,
    State.setRecord_record_self, State.setLeases_record, hg]
  rfl

/-- A QUEUE frame given: DRAINING and off the ready list when nobody else is owed it (R72). -/
theorem State.takeQueued_eq {owed hold : PortSet} (hst : s.stream k = some st)
    (hu : (s.record i).use = .frame a (.ready m (some owed) hold)) :
    s.takeQueued p k i =
      (s.setStream k (some { st with
        ready := if owed.drop p = PortSet.empty then st.ready.filter fun j => j ≠ i else st.ready })).setRecord i
        { s.record i with
          use := if owed.drop p = PortSet.empty then .frame a (.draining m (hold.add p))
            else .frame a (.ready m (some (owed.drop p)) (hold.add p)) } := by
  have hgiven : ((s.record i).mapPending fun x => x.drop p).mapHold (fun x => x.add p) =
      { s.record i with use := .frame a (.ready m (some (owed.drop p)) (hold.add p)) } := by
    simp [BufferRecord.mapPending, BufferRecord.mapHold, hu]
  rw [State.takeQueued, State.modRecord, hgiven, State.setRecord_record_self]
  by_cases he : owed.drop p = PortSet.empty
  · have hlive : ∀ r, (s.setRecord i r).stream k = some st := fun _ => hst
    simp only [BufferRecord.pendingSet, PortSet.isEmpty_iff, he, if_true, State.modStream_of_live (hlive _),
      State.modRecord, State.setStream_record, State.setRecord_record_self]
    simp [BufferRecord.toDraining, State.setStream, State.setRecord]
  · simp only [BufferRecord.pendingSet, PortSet.isEmpty_iff, he, if_false, State.setStream_same hst]

/-- The fallback or the ready frame of a LATEST stream given: the hold alone (R75, R76). -/
theorem State.takeRead_of_latest {c : ReadChoice} {r : BufferRecord} (hst : s.stream k = some st)
    (hc : c = .fallback i ∨ ∃ b, c = .latest i b) (hr : (s.record i).mapHold (fun x => x.add p) = r) :
    s.takeRead p k c = (s.setStream k (some st)).setRecord i r := by
  rw [State.setStream_same hst, ← hr]
  rcases hc with rfl | ⟨b, rfl⟩ <;> rfl

end

/-- Settles O35: the checks, then the oldest ready frame owed. -/
theorem acquireReadGivesTheOldestOwed : Obligations.AcquireReadGivesTheOldestOwed := by
  unfold Obligations.AcquireReadGivesTheOldestOwed
  intro s p f t k st hx hs hk hid hst ho
  refine ⟨fun hn => ?notMember, fun e hc hl => ?holdLimit, fun e flags hq hc hl hflags => ⟨fun hn => ?noFrame, ?given⟩⟩
  case notMember =>
    exact exec_of_body .acquireRead hx hk
      (acquireReadRequest_notMember (t := t) hs hid hst ho (Stream.consumer_eq_none hn))
  case holdLimit =>
    exact exec_of_body .acquireRead hx hk (acquireReadRequest_holdLimit (t := t) hs hid hst ho hc hl)
  all_goals
    have hport := Stream.consumer_port hc
    have hselect : s.selectRead k st e = s.selectQueue st p := by simp [State.selectRead, hq, hport]
  case noFrame =>
    have hbody := acquireReadRequest_noFrame (t := t) hs hid hst ho hc hl
      (hselect.trans (State.selectQueue_eq_none hn))
    rw [State.noFrame_eq, ← hflags] at hbody
    exact exec_of_body .acquireRead hx hk hbody
  case given =>
    intro front back i a m owed hold hr hfront hu howed
    have hchoice := hselect.trans
      (State.selectQueue_of_owed hr hfront ((congrFun (BufferRecord.owedTo_of_ready hu) p).trans howed))
    refine ⟨fun hlease hfull => ?noLease, fun h d hroom hh hd => ?granted⟩
    case noLease =>
      exact exec_of_body .acquireRead hx hk (acquireReadRequest_noLease (t := t) hs hid hst ho hc hl hchoice
        (State.not_leaseRoom hlease hfull))
    case granted =>
      have hbody := acquireReadRequest_granted (t := t) hs hid hst ho hc hl hchoice hroom
      have hassigned : (s.record i).assignment = some a := by simp [BufferRecord.assignment, hu]
      have htake := State.takeQueued_eq (p := p) hst hu
      have hseq : s.deliveredSequence (.queued i) = some m.sequence := by
        simp [State.deliveredSequence, ReadChoice.isFallback, ReadChoice.index, BufferRecord.stamp_of_ready hu]
      rw [State.readPayload_eq (c := .queued i) hassigned rfl hh hd, State.readFlags_toByte,
        State.grantRead_eq (c := .queued i) htake rfl hseq rfl hh hd] at hbody
      refine (exec_of_body .acquireRead hx hk hbody).trans ?_
      simp [ReadChoice.isRepeat, ReadChoice.isFallback, ReadChoice.index, BufferRecord.stamp_of_ready hu, optionWord,
        optionBytes, Consumer.given, hflags]

/-- Settles O36: by the selection, the fallback where it is offered, else the ready frame. -/
theorem acquireReadGivesTheLatest : Obligations.AcquireReadGivesTheLatest := by
  unfold Obligations.AcquireReadGivesTheLatest
  intro s p f t k st e stalled orphaned hx hs hk hid hst ho hpol hc hl hstalled horphaned
  have hselect : s.selectRead k st e = s.selectLatest k st e := by simp [State.selectRead, hpol]
  have hnoFrame : s.noFrame k st e =
      { result := .noFrame, payload := BitVec.ofNat 8 (stalled + orphaned) :: bytesOfNat 2 e.skipped } := by
    rw [State.noFrame_eq, hstalled, horphaned]
  refine ⟨fun i a hold h d hb hu hwhen hh hd => ?fallback, fun hno => ⟨fun hr => ?nothing, ?ready⟩⟩
  case fallback =>
    have hoffered := State.offeredFallback_of_valid (st := st) hb (by simp [BufferRecord.condition, hu]) hwhen
    have hchoice := hselect.trans (State.selectLatest_of_fallback hoffered)
    refine ⟨fun hlease hfull => ?noLease, fun hroom => ?granted⟩
    case noLease =>
      exact exec_of_body .acquireRead hx hk (acquireReadRequest_noLease (t := t) hs hid hst ho hc hl hchoice
        (State.not_leaseRoom hlease hfull))
    case granted =>
      have hbody := acquireReadRequest_granted (t := t) hs hid hst ho hc hl hchoice hroom
      have hassigned : (s.record i).assignment = some a := by simp [BufferRecord.assignment, hu]
      have htake := State.takeRead_of_latest (p := p) (i := i) (r := { s.record i with use := .fallback a (hold.add p) .valid })
        hst (.inl rfl) (by simp [BufferRecord.mapHold, hu])
      rw [State.readPayload_eq (c := .fallback i) hassigned rfl hh hd, State.readFlags_toByte,
        State.grantRead_eq htake rfl rfl rfl hh hd] at hbody
      refine (exec_of_body .acquireRead hx hk hbody).trans ?_
      simp [ReadChoice.isRepeat, ReadChoice.isFallback, optionWord, optionBytes, Consumer.given,
        State.deliveredSequence, horphaned]
  case nothing =>
    have hbody := acquireReadRequest_noFrame (t := t) hs hid hst ho hc hl
      (hselect.trans (State.selectLatest_of_empty (State.offeredFallback_eq_none hno) hr))
    rw [hnoFrame] at hbody
    exact exec_of_body .acquireRead hx hk hbody
  case ready =>
    intro i a m hold h d hr hu
    have hstamp := BufferRecord.stamp_of_ready hu
    have hready := hselect.trans (State.selectLatest_of_ready (State.offeredFallback_eq_none hno) hr hstamp)
    have hgiven : e.lastDelivered ≠ some m.sequence ∨ e.repeatAllowed = true →
        s.selectRead k st e = some (.latest i (decide (e.lastDelivered = some m.sequence))) := by
      intro hwhen
      rw [hready]
      by_cases hd : e.lastDelivered = some m.sequence
      · simp [hd, hwhen.resolve_left (not_not.2 hd)]
      · simp [hd]
    refine ⟨fun hdup hrep => ?noRepeat, fun hwhen hlease hfull => ?noLease, fun hwhen hroom hh hd => ?granted⟩
    case noRepeat =>
      rw [if_pos hdup, hrep] at hready
      have hbody := acquireReadRequest_noFrame (t := t) hs hid hst ho hc hl hready
      rw [hnoFrame] at hbody
      exact exec_of_body .acquireRead hx hk hbody
    case noLease =>
      exact exec_of_body .acquireRead hx hk (acquireReadRequest_noLease (t := t) hs hid hst ho hc hl (hgiven hwhen)
        (State.not_leaseRoom hlease hfull))
    case granted =>
      have hbody := acquireReadRequest_granted (t := t) hs hid hst ho hc hl (hgiven hwhen) hroom
      have hassigned : (s.record i).assignment = some a := by simp [BufferRecord.assignment, hu]
      have htake := State.takeRead_of_latest (p := p) (i := i)
        (r := { s.record i with use := .frame a (.ready m none (hold.add p)) })
        hst (.inr ⟨decide (e.lastDelivered = some m.sequence), rfl⟩) (by simp [BufferRecord.mapHold, hu])
      rw [State.readPayload_eq (c := .latest i _) hassigned rfl hh hd, State.readFlags_toByte,
        State.grantRead_eq htake rfl rfl rfl hh hd] at hbody
      refine (exec_of_body .acquireRead hx hk hbody).trans ?_
      simp [ReadChoice.isRepeat, ReadChoice.isFallback, ReadChoice.index, hstamp, optionWord, optionBytes,
        Consumer.given, State.deliveredSequence, hstalled, horphaned]

end Sys2Proof.Machine
end

section
/-! PROOF. RELEASE and RENEW (R82–R84, R100, R101). -/

namespace Sys2Proof.Machine

section
variable {s : State} {p : Port} {f : RequestFrame} {t : Time} {k : StreamId} {st : Stream} {i : RecordId}

/-- A record names a stream when its assignment does (R20). -/
theorem BufferRecord.names_iff {r : BufferRecord} : r.names k = true ↔ ∃ a, r.assignment = some a ∧ a.stream = k := by
  cases h : r.assignment <;> simp [BufferRecord.names, h]

/-! ## RELEASE (R82, R83) -/

theorem releaseRequest_eq {a : Assignment} (hs : s.InSession p f)
    (hh : f.handle = formHandle .read i (s.record i).generation) (hheld : (s.record i).heldBy p = true)
    (ha : (s.record i).assignment = some a) (hst : s.stream a.stream = some st) (ho : st.phase ≠ .preparing) :
    releaseRequest p f t s = ((s.releaseHold i p a.stream).completionCheck a.stream,
      .ok [(((s.releaseHold i p a.stream).completionCheck a.stream).record i).stateCode]) := by
  have hcheck := checkHandle_of_valid (admits := admitsRelease) (kind := some .read) hh ha hst
    (by simpa [admitsRelease] using ho) (State.handleValid_read hheld) (.inr rfl)
  simp [releaseRequest, checkSession_of_inSession hs, hcheck]

/-- The end of a hold: the record, the count of holds and the lease, then the record's own end (R83). -/
theorem State.releaseHold_eq {u : State} {h : BitVec 16} (hst : s.stream k = some st)
    (hh : h = formHandle .read i (s.record i).generation)
    (hu : u = { s with
      records := s.records.set i ((s.record i).mapHold fun x => x.drop p)
      streams := s.streams.set k (some { st with consumers := st.consumers.map fun c =>
        if c.port = p then { c with readHolds := c.readHolds - 1 } else c })
      leases := removeLease s.timebase h p s.leases }) :
    s.releaseHold i p k = if (u.record i).isDraining && (u.record i).unheld then u.becomeFree i k else u := by
  have hlive : ((s.endLease (formHandle .read i (s.record i).generation) p).modRecord i
      (BufferRecord.mapHold fun x => x.drop p)).stream k = some st := hst
  have hu' : ((s.endLease (formHandle .read i (s.record i).generation) p).modRecord i
      (BufferRecord.mapHold fun x => x.drop p)).modStream k
        (Stream.modConsumer p fun c => { c with readHolds := c.readHolds - 1 }) = u := by
    rw [State.modStream_of_live hlive, hu, hh]
    rfl
  simp only [State.releaseHold, State.endHold, hu']

/-- What a record without a port's hold is, by its state: a DRAINING one without holders becomes FREE (R83). -/
theorem BufferRecord.drained_iff (r : BufferRecord) :
    ((r.mapHold fun x => x.drop p).isDraining && (r.mapHold fun x => x.drop p).unheld) = true ↔
      ∃ a m hold, r.use = .frame a (.draining m hold) ∧ hold.drop p = PortSet.empty := by
  rcases r with ⟨g, fl, _ | ⟨a, fs⟩ | ⟨a, hold, c⟩⟩
  · simp [BufferRecord.mapHold, BufferRecord.isDraining]
  · cases fs <;>
      simp [BufferRecord.mapHold, BufferRecord.isDraining, BufferRecord.unheld, BufferRecord.holdSet, PortSet.isEmpty]
  · simp [BufferRecord.mapHold, BufferRecord.isDraining]

/-! ## RENEW (R101) -/

theorem renewRequest_of_valid {kind : HandleKind} {a : Assignment} (hs : s.InSession p f)
    (hh : f.handle = formHandle kind i (s.record i).generation) (ha : (s.record i).assignment = some a)
    (hst : s.stream a.stream = some st) (ho : st.phase ≠ .preparing)
    (hv : s.handleValid p kind i (s.record i).generation = true) :
    renewRequest p f t s =
      if st.leaseOf kind = 0 then (s, .ok [0, 0, 0, 0, 0])
      else (s.setLeases (renewLease s.timebase f.handle p (leaseDeadline s.timebase (st.leaseOf kind)) s.leases),
        .ok (1 :: bytesOfNat 4 (leaseDeadline s.timebase (st.leaseOf kind)).toNat)) := by
  have hcheck := checkHandle_of_valid (admits := admitsRelease) (kind := none) hh ha hst
    (by simpa [admitsRelease] using ho) hv (.inl rfl)
  by_cases hu : st.leaseOf kind = 0
  · simp only [renewRequest, checkSession_of_inSession hs, hcheck, answer_bind_ok, grantedDeadline, hu, if_true]
    rfl
  · simp only [renewRequest, checkSession_of_inSession hs, hcheck, answer_bind_ok, grantedDeadline, hu, if_false]
    rfl

/-- The one entry of a handle and a port moves to its new deadline (R101). -/
theorem renewLease_of_entry {now deadline : Time} {h : BitVec 16} {front back : List LeaseEntry} {e : LeaseEntry}
    (hothers : ∀ x ∈ front ++ back, ¬(x.handle = h ∧ x.port = p)) (hh : e.handle = h) (hp : e.port = p) :
    renewLease now h p deadline (front ++ e :: back) =
      (if e.marked then lookLeases now else id)
        (insertLease { e with deadline := deadline, marked := false } (front ++ back)) := by
  have hnot : ∀ x ∈ front ++ back, x.isOf h p = false := fun x hx =>
    Bool.eq_false_iff.2 (mt (LeaseEntry.isOf_iff ..).1 (hothers x hx))
  have he : e.isOf h p = true := (LeaseEntry.isOf_iff ..).2 ⟨hh, hp⟩
  have hfind : (front ++ e :: back).find? (LeaseEntry.isOf h p) = some e := by
    rw [List.find?_append, List.find?_eq_none.2 fun x hx => by simp [hnot x (List.mem_append_left _ hx)]]
    simp [he]
  have hfilter : (front ++ e :: back).filter (fun x => !x.isOf h p) = front ++ back := by
    rw [List.filter_append, List.filter_cons_of_neg (by simp [he]), ← List.filter_append]
    exact List.filter_eq_self.2 fun x hx => by simp [hnot x hx]
  simp only [renewLease, hfind, hfilter]
  cases e.marked <;> rfl

end

/-- Settles O37: the record's end by its state, and no hold of the port left behind it. -/
theorem releaseEndsTheHold : Obligations.ReleaseEndsTheHold := by
  unfold Obligations.ReleaseEndsTheHold
  intro s p f t i st k u v hx hs hk hh hheld hn hst ho hu hv
  obtain ⟨a, ha, rfl⟩ := BufferRecord.names_iff.1 hn
  have hrecord : u.record i = (s.record i).mapHold fun x => x.drop p := by
    rw [hu, State.record_set_self]
  have hrelease := State.releaseHold_eq hst hh hu
  rw [hrecord] at hrelease
  have hv' : v = (s.releaseHold i p a.stream).completionCheck a.stream := by
    rw [hv, hrelease]
    split
    · next _ b m hold huse =>
      have hdrained := (s.record i).drained_iff (p := p)
      by_cases hempty : hold.drop p = PortSet.empty
      · rw [if_pos hempty, if_pos (hdrained.2 ⟨b, m, hold, huse, hempty⟩)]
      · rw [if_neg hempty, if_neg]
        rintro h
        obtain ⟨b', m', hold', huse', hempty'⟩ := hdrained.1 h
        rw [huse] at huse'
        cases huse'
        exact hempty hempty'
    · next _ hother =>
      rw [if_neg]
      rintro h
      obtain ⟨b, m, hold, huse, -⟩ := (s.record i).drained_iff.1 h
      exact hother b m hold huse
  have hwithin : u.Within a.stream v := by
    rw [hv', hrelease]
    refine State.Within.trans ?_ (State.completionCheck_within _ _)
    split
    · exact State.becomeFree_within ..
    · exact .refl _ _
  have hbody := releaseRequest_eq (t := t) hs hh hheld ha hst ho
  rw [← hv'] at hbody
  refine ⟨exec_of_body .release hx hk hbody, Bool.eq_false_iff.2 fun hstill => ?_⟩
  have hbefore := hwithin.held i p hstill
  rw [hrecord, BufferRecord.heldBy_mapHold_drop] at hbefore
  simp at hbefore

/-- Settles O38: the entry found is the one of the handle and the port. -/
theorem renewMovesTheDeadline : Obligations.RenewMovesTheDeadline := by
  unfold Obligations.RenewMovesTheDeadline
  intro s p f t kind i a st units d hx hs hk hh ha hst ho hright hunits hd
  have hlease : st.leaseOf kind = units := by
    rw [hunits]
    cases kind <;> rfl
  have hvalid : s.handleValid p kind i (s.record i).generation = true := by
    cases kind
    · exact State.handleValid_write hright
    · exact State.handleValid_read hright
  have hdeadline : leaseDeadline s.timebase units = d := hd.symm
  have hbody := renewRequest_of_valid (t := t) hs hh ha hst ho hvalid
  rw [hlease, hdeadline] at hbody
  refine ⟨fun hu => ?none, fun front e back hu hl hothers heh hep => ?moved⟩
  case none =>
    rw [if_pos hu] at hbody
    exact exec_of_body .renew hx hk hbody
  case moved =>
    rw [if_neg hu, hl, renewLease_of_entry hothers heh hep] at hbody
    exact exec_of_body .renew hx hk hbody

end Sys2Proof.Machine
end

section
/-! PROOF. Handles (R11–R14, R192): their bits, and the handle step of RELEASE, PUBLISH and DISCARD. -/

namespace Sys2Proof.Machine

/-! ## The layout (R192) -/

/-- A value that names nothing has bit 14 set; one that names a right has its parts in the other bits. -/
theorem parseHandle_eq_some {h : BitVec 16} {kind : HandleKind} {i : RecordId} {g : BitVec 8}
    (hp : parseHandle h = some (kind, i, g)) :
    h.getLsbD 14 = false ∧ h.getLsbD 15 = decide (kind = .read) ∧ h.toNat / 256 % 64 = i.val ∧
      h.setWidth 8 = g := by
  unfold parseHandle at hp
  split at hp
  · cases hp
  · next h14 =>
    cases hp
    refine ⟨by simpa using h14, ?_, rfl, rfl⟩
    cases h.getLsbD 15 <;> rfl

theorem parseHandle_of_bit14 {h : BitVec 16} (h14 : h.getLsbD 14 = true) : parseHandle h = none := by
  rw [parseHandle, if_pos h14]

/-- The index stands in bits 13 to 8. -/
theorem extractLsb'_index {h : BitVec 16} {i : RecordId} (hi : h.toNat / 256 % 64 = i.val) :
    h.extractLsb' 8 6 = BitVec.ofNat 6 i.val := by
  apply BitVec.eq_of_toNat_eq
  rw [BitVec.extractLsb'_toNat, BitVec.toNat_ofNat, Nat.shiftRight_eq_div_pow, ← hi, Nat.mod_mod]

theorem extractLsb'_generation (h : BitVec 16) : h.extractLsb' 0 8 = h.setWidth 8 := by
  apply BitVec.eq_of_toNat_eq
  rw [BitVec.extractLsb'_toNat, BitVec.toNat_setWidth, Nat.shiftRight_zero]

/-! ## The handle step (R14) -/

section
variable {s : State} {p : Port} {f : RequestFrame} {t : Time}

/-- The requests whose handle must be of one kind, and the stream states that allow them. -/
def Request.handleStep : Request → Option (HandleKind × (StreamPhase → Bool))
  | .release => some (.read, admitsRelease)
  | .publish | .discard => some (.write, admitsWrite)
  | _ => none

/-- In session, what the handle step refuses ends the request. -/
theorem Request.body_of_handle_refused {r : Request} {need : HandleKind} {admits : StreamPhase → Bool}
    {x : State × Reply} (hs : s.InSession p f) (hr : r.handleStep = some (need, admits))
    (hx : checkHandle p f.handle admits (some need) s = .error x) : r.body p f t s = x := by
  cases r <;> cases hr
  case release => simp [Request.body, releaseRequest, checkSession_of_inSession hs, hx]
  case publish => simp [Request.body, publishRequest, checkSession_of_inSession hs, hx]
  case discard => simp [Request.body, discardRequest, checkSession_of_inSession hs, hx]

theorem invalidHandle_of_mem {h : BitVec 16} (hm : h ∈ (s.port p).expired) :
    invalidHandle p h s = (s.setPort p { s.port p with
      expired := (s.port p).expired.filter fun x => x ≠ h }, .refuse .expired) := by
  rw [invalidHandle, if_pos (List.contains_iff_mem.2 hm)]
  rfl

theorem invalidHandle_of_not_mem {h : BitVec 16} (hm : h ∉ (s.port p).expired) :
    invalidHandle p h s = (s, .refuse .staleHandle) := by
  rw [invalidHandle, if_neg (mt List.contains_iff_mem.1 hm)]

end

/-- Settles O39: the layout by reading a formed handle back; the outcomes by the handle step. -/
theorem handlesAreFormedAndJudged : Obligations.HandlesAreFormedAndJudged := by
  unfold Obligations.HandlesAreFormedAndJudged
  refine ⟨fun kind i g => ?layout, fun h h14 => parseHandle_of_bit14 h14, by decide, by decide, ?judged⟩
  case layout =>
    have hparse := parseHandle_formHandle kind i g
    obtain ⟨h14, h15, hi, hg⟩ := parseHandle_eq_some hparse
    exact ⟨h15, h14, extractLsb'_index hi, (extractLsb'_generation _).trans hg, hparse⟩
  case judged =>
    intro s p f t r kind need i g a st valid hx hs hk hparse ha hst hneed hvalid
    have hstep : ∃ admits, r.handleStep = some (need, admits) ∧ admits st.phase = true := by
      rcases hneed with ⟨rfl, rfl, ho⟩ | ⟨rfl | rfl, rfl, ho⟩
      · exact ⟨_, rfl, by simpa [admitsRelease] using ho⟩
      · exact ⟨_, rfl, by simpa [admitsWrite] using ho⟩
      · exact ⟨_, rfl, by simpa [admitsWrite] using ho⟩
    obtain ⟨admits, hadmits, ho⟩ := hstep
    have hiff : s.handleValid p kind i g = true ↔ valid := by
      rw [hvalid]
      cases kind <;> simp [State.handleValid]
    have hinvalid (hn : ¬valid) : r.body p f t s = invalidHandle p f.handle s :=
      Request.body_of_handle_refused hs hadmits
        (checkHandle_of_invalid _ hparse ha hst ho (Bool.eq_false_iff.2 (mt hiff.1 hn)))
    refine ⟨fun hn hm => ?expired, fun hn hm => ?stale, fun hy hkind => ?wrongKind⟩
    case expired => exact exec_command_of_body hx hk ((hinvalid hn).trans (invalidHandle_of_mem hm))
    case stale => exact exec_command_of_body hx hk ((hinvalid hn).trans (invalidHandle_of_not_mem hm))
    case wrongKind =>
      exact exec_command_of_body hx hk (Request.body_of_handle_refused hs hadmits
        (checkHandle_of_wrongKind hparse ha hst ho (hiff.2 hy) hkind))

end Sys2Proof.Machine
end

section
/-! PROOF. The queries (R46, R158–R160, R191): nothing changes, and the responses byte by byte. -/

namespace Sys2Proof.Machine

section
variable {s : State} {p : Port} {f : RequestFrame} {t : Time} {k : StreamId} {st : Stream} {i : RecordId}

/-! ## The bodies -/

theorem queryDeviceRequest_eq (hs : s.InSession p f) : queryDeviceRequest p f t s = (s, .ok s.deviceBytes) := by
  simp [queryDeviceRequest, checkSession_of_inSession hs]

theorem queryBufferRequest_of_index (hs : s.InSession p f) (hi : f.field 0 1 = i.val) :
    queryBufferRequest p f t s = (s, .ok (s.bufferBytes i)) := by
  simp [queryBufferRequest, checkSession_of_inSession hs, hi, i.isLt]

theorem queryBufferRequest_outOfRange (hs : s.InSession p f) (hi : 63 < f.field 0 1) :
    queryBufferRequest p f t s = (s, .refuse .badParameter) := by
  simp [queryBufferRequest, checkSession_of_inSession hs, Nat.not_lt.2 hi]

theorem queryStreamRequest_of_live (hs : s.InSession p f) (hid : f.field 0 1 = k.val) (hst : s.stream k = some st) :
    queryStreamRequest p f t s = (s, .ok
      (s.streamFixedPart k st ++ s.readyListBytes st ++ freeListBytes st ++ consumerListBytes st)) := by
  simp [queryStreamRequest, checkSession_of_inSession hs, checkStream_of_live (fun _ => true) hid hst]

theorem queryStreamRequest_unknown (hs : s.InSession p f)
    (h : 15 < f.field 0 1 ∨ ∃ k : StreamId, f.field 0 1 = k.val ∧ s.stream k = none) :
    queryStreamRequest p f t s = (s, .refuse .unknownStream) := by
  simp [queryStreamRequest, checkSession_of_inSession hs, checkStream_of_unknown _ h]

/-! ## The lengths -/

theorem length_bytesOfNat (width n : Nat) : (bytesOfNat width n).length = width := by
  induction width generalizing n with
  | zero => rfl
  | succ w ih => simp [bytesOfNat, ih]

end

/-! ## The bytes (R189, R191) -/

theorem optionWord_eq (x : Option (BitVec 32)) : optionWord x = bytesOfNat 4 (x.getD 0).toNat := by
  cases x <;> rfl

theorem bytesOfNat_zero (width : Nat) : bytesOfNat width 0 = List.replicate width 0 := by
  induction width with
  | zero => rfl
  | succ w ih => simp [bytesOfNat, ih, List.replicate_succ]

theorem length_optionWord (x : Option (BitVec 32)) : (optionWord x).length = 4 := length_bytesOfNat 4 _

theorem State.length_streamFixedPart (s : State) (k : StreamId) (st : Stream) :
    (s.streamFixedPart k st).length = 43 := by
  simp [State.streamFixedPart, length_bytesOfNat, length_optionWord, optionBytes]

theorem State.length_readyListBytes (s : State) (st : Stream) :
    (s.readyListBytes st).length = 1 + 5 * st.ready.length := by
  simp [State.readyListBytes, length_optionWord, List.length_flatMap, Nat.add_comm, Nat.mul_comm]

theorem length_freeListBytes (st : Stream) : (freeListBytes st).length = 1 + st.free.length := by
  simp [freeListBytes, Nat.add_comm]

theorem length_consumerListBytes (st : Stream) :
    (consumerListBytes st).length = 1 + 11 * st.consumers.length := by
  simp [consumerListBytes, Consumer.bytes, length_bytesOfNat, length_optionWord, List.length_flatMap, Nat.add_comm,
    Nat.mul_comm]

theorem State.length_bufferBytes (s : State) (i : RecordId) : (s.bufferBytes i).length = 29 := by
  simp [State.bufferBytes, length_bytesOfNat, length_optionWord]

theorem BufferRecord.isUnassigned_iff {r : BufferRecord} : r.isUnassigned = true ↔ r.use = .unassigned := by
  cases h : r.use <;> simp [BufferRecord.isUnassigned, BufferRecord.assignment, h]

/-- Settles O40: each query's body leaves the state; the bytes are those of the model's response. -/
theorem queriesChangeNothing : Obligations.QueriesChangeNothing := by
  unfold Obligations.QueriesChangeNothing
  intro s p f t hx hs
  refine ⟨fun hk => ?device, fun hk => ⟨fun i hi => ⟨?buffer, s.length_bufferBytes i⟩, fun hi => ?noBuffer⟩,
    fun hk => ⟨?stream, fun h => ?noStream⟩⟩
  case device =>
    have hcount : (allRecords.countP fun i => decide ((s.record i).use ≠ .unassigned)) =
        allRecords.countP fun i => !(s.record i).isUnassigned := by
      refine List.countP_congr fun i _ => ?_
      simp [← BufferRecord.isUnassigned_iff]
    rw [hcount]
    exact exec_of_body .queryDevice hx hk (queryDeviceRequest_eq (t := t) hs)
  case buffer => exact exec_of_body .queryBuffer hx hk (queryBufferRequest_of_index (t := t) hs hi)
  case noBuffer => exact exec_of_body .queryBuffer hx hk (queryBufferRequest_outOfRange (t := t) hs hi)
  case noStream => exact exec_of_body .queryStream hx hk (queryStreamRequest_unknown (t := t) hs h)
  case stream =>
    rintro k st _ _ _ _ fixed ready free consumers hid hst rfl rfl rfl rfl hfixed hready hfree hconsumers
    have hfixed' : fixed = s.streamFixedPart k st := by
      rw [hfixed]
      simp only [State.streamFixedPart, optionWord_eq]
      cases hfallback : s.fallbackOf k with
      | none => rcases st.phase with _ | _ | _ | (_ | _ | _) <;> rfl
      | some i =>
        rw [Option.bind_some]
        rcases (s.record i).condition with _ | (_ | _ | _) <;> rcases st.phase with _ | _ | _ | (_ | _ | _) <;> rfl
    have hready' : ready = s.readyListBytes st := by
      rw [hready]
      refine congrArg _ (List.flatMap_congr fun i _ => congrArg _ ?_)
      cases (s.record i).stamp <;> rfl
    have hconsumers' : consumers = consumerListBytes st := by
      rw [hconsumers, consumerListBytes]
      refine congrArg _ (List.flatMap_congr fun c _ => ?_)
      rw [Consumer.bytes, optionWord_eq]
      rfl
    subst hfixed' hready' hconsumers' hfree
    exact ⟨exec_of_body .queryStream hx hk (queryStreamRequest_of_live (t := t) hs hid hst),
      s.length_streamFixedPart k st, s.length_readyListBytes st, length_freeListBytes st, length_consumerListBytes st⟩

/-! ## QUERY_BUFFER (R158) -/

/-- The job of a tag has started: it is the head of the queue while a burst or a report is under way (R131). -/
theorem FillEngine.isHead_iff (e : FillEngine) (tag : BitVec 8) :
    e.isHead tag = true ↔ ∃ j js, e.jobs = j :: js ∧ j.tag = tag ∧
      ((∃ b, e.state = .running b) ∨ ∃ r, e.state = .reporting r) := by
  have hstarted : e.headStarted = true ↔ (∃ b, e.state = .running b) ∨ ∃ r, e.state = .reporting r := by
    cases h : e.state <;> simp [FillEngine.headStarted, h]
  cases hj : e.jobs with
  | nil => simp [FillEngine.isHead, hj]
  | cons j js =>
    simp only [FillEngine.isHead, hj, Bool.and_eq_true, hstarted, decide_eq_true_eq]
    constructor
    · rintro ⟨hs, ht⟩
      exact ⟨j, js, rfl, ht, hs⟩
    · rintro ⟨j', js', he, ht, hs⟩
      cases he
      exact ⟨hs, ht⟩

/-- The fill field as two bytes (R158). -/
def fillBytes (e : FillEngine) (x : FillRef) : List Byte := [(fillView e x).1, optionByte (fillView e x).2]

/-- Settles O41: by the record's use, field by field. -/
theorem queryBufferSpellsTheRecord : Obligations.QueryBufferSpellsTheRecord := by
  unfold Obligations.QueryBufferSpellsTheRecord
  intro s i g x view hview
  have hview' : view = fillBytes s.engine x := by
    rw [hview]
    cases x <;> rfl
  subst hview'
  refine ⟨s.engine.isHead_iff, fun hr => ?unassigned, fun a fs head region hr hhead hregion => ?frame,
    fun a hold c condition hr hc => ?fallback⟩
  case' frame =>
    subst hhead hregion
    rcases fs with _ | _ | ⟨m, _ | pend, hold⟩ | _ | _
  case' fallback =>
    subst hc
    cases c
  all_goals
    simp [State.bufferBytes, hr, indexByte, BufferRecord.stateCode, BufferRecord.assignment, BufferRecord.roleCode,
      BufferRecord.base, BufferRecord.length, BufferRecord.writer, BufferRecord.stamp, BufferRecord.pendingSet,
      BufferRecord.holdSet, BufferRecord.condition, FallbackCondition.code, optionWord, optionBytes, optionSet,
      optionByte, flagBit, fillBytes, bytesOfNat_zero]

end Sys2Proof.Machine
end

section
/-! PROOF. OPEN_STREAM (R27–R29): the records in descriptor order, the stream, and the fallback's fill. -/

namespace Sys2Proof.Machine

section
variable {s : State} {p : Port} {f : RequestFrame} {t : Time} {k : StreamId} {i : RecordId}

/-! ## Records and descriptors (R17, R29) -/

theorem RequestFrame.descriptors_of_inRange (h : f.parametersInRange = true) :
    f.descriptors.length = f.recordCount := by
  simp only [RequestFrame.parametersInRange, Bool.and_eq_true, decide_eq_true_eq] at h
  exact h.2

theorem RequestFrame.descriptors_getElem? {j : Nat} (h : j < f.descriptors.length) :
    f.descriptors[j]? = some (f.descriptor j) := by
  have hlt : j < (f.payload.length - 18) / 10 := by simpa [RequestFrame.descriptors] using h
  simp [RequestFrame.descriptors, hlt]

theorem RequestFrame.frameCount_le (f : RequestFrame) : f.frameCount ≤ f.recordCount := Nat.le_add_right _ _

/-- The frame buffers, assigned in number order (R29, items 1 and 2). -/
def State.openFrames (k : StreamId) (f : RequestFrame) (s : State) : State :=
  ((s.openPairs f).take f.frameCount).foldl (fun s x => s.assignFrame k x) s

/-- The assignment of the frame buffers changes records alone. -/
theorem State.openFrames_eq (k : StreamId) (f : RequestFrame) (s : State) :
    s.openFrames k f = { s with records := (s.openFrames k f).records } := State.assignFrames_frame k _ s

theorem State.openFrames_engine (k : StreamId) (f : RequestFrame) (s : State) :
    (s.openFrames k f).engine = s.engine := by
  rw [State.openFrames_eq]

theorem State.openFrames_timebase (k : StreamId) (f : RequestFrame) (s : State) :
    (s.openFrames k f).timebase = s.timebase := by
  rw [State.openFrames_eq]

/-- The record behind the frame buffers is none of them. -/
theorem State.fallback_not_mem_frames (hi : s.unassigned[f.frameCount]? = some i) :
    i ∉ s.unassigned.take f.frameCount := by
  have hmem : i ∈ s.unassigned.drop f.frameCount :=
    List.mem_of_getElem? (i := 0) (by rw [List.getElem?_drop, Nat.add_zero, hi])
  exact fun hm => List.disjoint_take_drop s.unassigned_nodup (Nat.le_refl _) hm hmem

/-- With a fallback there is a record behind the frame buffers (R28). -/
theorem State.exists_fallback_record (hf : f.hasFallback = true) (hn : f.recordCount ≤ s.unassigned.length) :
    ∃ i, s.unassigned[f.frameCount]? = some i := by
  have hlt : f.frameCount < s.unassigned.length := Nat.lt_of_lt_of_le (by simp [RequestFrame.recordCount, hf]) hn
  exact ⟨_, List.getElem?_eq_getElem hlt⟩

section
variable (hd : f.descriptors.length = f.recordCount)
include hd

theorem State.openPairs_getElem? {j : Nat} (hj : j < f.recordCount) (hi : s.unassigned[j]? = some i) :
    (s.openPairs f)[j]? = some (i, f.descriptor j) :=
  List.getElem?_zip_eq_some.2 ⟨hi, RequestFrame.descriptors_getElem? (hd ▸ hj)⟩

theorem State.openPairs_take_fst :
    ((s.openPairs f).take f.frameCount).map Prod.fst = s.unassigned.take f.frameCount := by
  have hle := f.frameCount_le
  rw [State.openPairs, List.zip, List.take_zipWith]
  exact List.map_fst_zip (by simp only [List.length_take]; omega)

/-- A frame buffer of the stream reads its descriptor; the others read what they read before (R5). -/
theorem State.openFrames_record_of_frame {j : Nat} (hj : j < f.frameCount) (hi : s.unassigned[j]? = some i) :
    (s.openFrames k f).record i =
      { s.record i with fill := .noJob, use := .frame ((f.descriptor j).assign k) .free } := by
  have hpair := State.openPairs_getElem? hd (Nat.lt_of_lt_of_le hj f.frameCount_le) hi
  have hmem : (i, f.descriptor j) ∈ (s.openPairs f).take f.frameCount :=
    List.mem_of_getElem? (by rw [List.getElem?_take_of_lt hj, hpair])
  refine (State.assignFrames_record k _ ?_ s i).1 _ hmem
  rw [State.openPairs_take_fst hd]
  exact s.unassigned_nodup.sublist (List.take_sublist _ _)

theorem State.openFrames_record_of_other (hi : i ∉ s.unassigned.take f.frameCount) :
    (s.openFrames k f).record i = s.record i := by
  refine (State.assignFrames_record k _ ?_ s i).2 ?_ <;> rw [State.openPairs_take_fst hd]
  · exact s.unassigned_nodup.sublist (List.take_sublist _ _)
  · exact hi

/-! ## The state after (R29) -/

theorem State.openStream_of_frames (hf : f.hasFallback = false) :
    s.openStream p f k = ((s.openFrames k f).setStream k
      (some (f.newStream p (s.unassigned.take f.frameCount)))).setTracker k (Tracker.cleared f.cadence) := by
  rw [← State.openPairs_take_fst hd]
  simp only [State.openStream, hf]
  rfl

theorem State.openStream_of_fallback (hf : f.hasFallback = true) (hi : s.unassigned[f.frameCount]? = some i) :
    s.openStream p f k = (((s.openFrames k f).setStream k
      (some (f.newStream p (s.unassigned.take f.frameCount)))).setTracker k (Tracker.cleared f.cadence)).assignFallback
        k p (BitVec.ofNat 32 (f.field 14 4)) (i, f.descriptor f.frameCount) := by
  have hlt : f.frameCount < f.recordCount := by simp [RequestFrame.recordCount, hf]
  have hdrop := List.drop_eq_getElem?_toList_append (l := s.openPairs f) (i := f.frameCount)
  rw [State.openPairs_getElem? hd hlt hi, Option.toList_some, List.singleton_append] at hdrop
  rw [← State.openPairs_take_fst hd]
  simp only [State.openStream, hf, if_true]
  rw [State.openPairs] at hdrop
  simp only [hdrop]
  rfl

end

theorem State.streamCode_of_live {st : Stream} (h : s.stream k = some st) : s.streamCode k = st.phase.code := by
  simp [State.streamCode, h]

/-- The fallback, and its fill over the whole region (R5, R29 item 5). -/
theorem State.assignFallback_eq (pattern : BitVec 32) (d : Region) :
    s.assignFallback k p pattern (i, d) = { s with
      records := s.records.set i
        { s.record i with fill := .named s.engine.nextTag, use := .fallback (d.assign k) PortSet.empty .filling }
      engine := s.engine.submit s.timebase
        { index := i, kind := .fallbackFill, requester := p, pattern := pattern
          start := (d.assign k).base, stop := (d.assign k).base + (d.assign k).length.setWidth 40 } } := by
  simp only [State.assignFallback, State.modRecord]
  rw [State.submitFill_eq (i := i) rfl, State.setRecord_record_self]
  simp [fallbackOrder, BufferRecord.base, BufferRecord.length, BufferRecord.assignment, State.setRecord]

section
variable (hd : f.descriptors.length = f.recordCount) (hn : f.recordCount ≤ s.unassigned.length)
include hd hn

/-- What opening changes: records, one stream and its tracker, and the engine. -/
theorem State.openStream_eq : s.openStream p f k = { s with
    records := (s.openStream p f k).records
    streams := s.streams.set k (some (f.newStream p (s.unassigned.take f.frameCount)))
    trackers := s.trackers.set k (Tracker.cleared f.cadence)
    engine := (s.openStream p f k).engine } := by
  have hframes := s.openFrames_eq k f
  cases hf : f.hasFallback
  · rw [State.openStream_of_frames hd hf, hframes]
    rfl
  · obtain ⟨i, hi⟩ := State.exists_fallback_record hf hn
    rw [State.openStream_of_fallback hd hf hi, State.assignFallback_eq, hframes]
    rfl

end

section
variable (hd : f.descriptors.length = f.recordCount)
include hd

theorem State.openStream_record_of_fallback (hf : f.hasFallback = true) (hi : s.unassigned[f.frameCount]? = some i) :
    (s.openStream p f k).record i = { s.record i with
      fill := .named s.engine.nextTag
      use := .fallback ((f.descriptor f.frameCount).assign k) PortSet.empty .filling } := by
  rw [State.openStream_of_fallback hd hf hi, State.assignFallback_eq, ← s.openFrames_engine k f,
    ← State.openFrames_record_of_other (k := k) hd (State.fallback_not_mem_frames hi)]
  exact State.setRecord_record_self ..

theorem State.openStream_engine_of_fallback (hf : f.hasFallback = true)
    (hi : s.unassigned[f.frameCount]? = some i) :
    (s.openStream p f k).engine = s.engine.submit s.timebase
      { index := i, kind := .fallbackFill, requester := p, pattern := BitVec.ofNat 32 (f.field 14 4)
        start := ((f.descriptor f.frameCount).assign k).base
        stop := ((f.descriptor f.frameCount).assign k).base +
          ((f.descriptor f.frameCount).assign k).length.setWidth 40 } := by
  rw [State.openStream_of_fallback hd hf hi, State.assignFallback_eq, ← s.openFrames_engine k f,
    ← s.openFrames_timebase k f]
  rfl

/-- Every record but the fallback is what the frame buffers' assignment leaves. -/
theorem State.openStream_record_of_other (hn : f.recordCount ≤ s.unassigned.length)
    (hi : f.hasFallback = true → s.unassigned[f.frameCount]? ≠ some i) :
    (s.openStream p f k).record i = (s.openFrames k f).record i := by
  cases hf : f.hasFallback
  · rw [State.openStream_of_frames hd hf]
    rfl
  · obtain ⟨j, hj⟩ := State.exists_fallback_record hf hn
    have hne : j ≠ i := fun h => hi hf (h ▸ hj)
    rw [State.openStream_of_fallback hd hf hj, State.assignFallback_eq]
    exact State.setRecord_record_ne _ _ _ _ hne

end

/-! ## The body (R29) -/

theorem openStreamRequest_opened (hs : s.InSession p f) (hr : f.parametersInRange = true)
    (hb : ∀ d ∈ f.descriptors, d.inBounds = true) (hc : firstConflict s.regionMap f.descriptors 0 = none)
    (hp : s.producerCount p < 4) (hk : s.stream k = none) (hlow : ∀ j, j < k → s.stream j ≠ none)
    (hn : f.recordCount ≤ s.unassigned.length) (hf : f.hasFallback = true → s.engine.jobs.length < 8) :
    openStreamRequest p f t s = (s.openStream p f k, .ok
      ([BitVec.ofNat 8 k.val, (s.openStream p f k).streamCode k, BitVec.ofNat 8 f.recordCount] ++
        (s.unassigned.take f.recordCount).map fun i => BitVec.ofNat 8 i.val)) := by
  have hfind : (allStreams.find? fun k => (s.stream k).isNone) = some k :=
    find_finRange_lowest (by simp [hk]) fun j hj => by simpa [Option.isSome_iff_ne_none] using hlow j hj
  have hqueue : (!f.hasFallback || !s.engine.isFull) = true := by
    cases h : f.hasFallback
    · rfl
    · simp [FillEngine.isFull_eq_false (hf h)]
  simp [openStreamRequest, checkSession_of_inSession hs, answer_check, answer_checkDescriptor, hr,
    findIdx?_all_inBounds hb, hc, hp, hfind, hn, hqueue]

end

/-- Settles O18: the frames, then the stream and its tracker, then the fallback where one is asked for. -/
theorem openStreamCreatesTheStream : Obligations.OpenStreamCreatesTheStream := by
  unfold Obligations.OpenStreamCreatesTheStream
  intro s p f t k hx hs hk hr hb hc hp hst hlow hn hf
  have hd := RequestFrame.descriptors_of_inRange hr
  have hbody := openStreamRequest_opened (t := t) hs hr hb hc hp hst hlow hn hf
  have hopen := State.openStream_eq (p := p) (k := k) hd hn
  have hstream := (congrArg (fun u : State => u.stream k) hopen).trans (s.setStream_stream_self k _)
  rw [State.streamCode_of_live hstream] at hbody
  refine ⟨s.openStream p f k, ?exec, hstream, fun j hj => ?streams, fun j i hj hi => ?frame, fun i hfb hi => ?fallback,
    fun hfb => ?engine, fun i hi => ?others, ?tracker, fun j hj => ?trackers, ?rest⟩
  case exec =>
    have hcode : (f.newStream p (s.unassigned.take f.frameCount)).phase.code = if f.hasFallback then 1 else 2 := by
      cases h : f.hasFallback <;> simp [RequestFrame.newStream, h, StreamPhase.code]
    rw [hcode] at hbody
    exact exec_of_body .openStream hx hk hbody
  case streams =>
    exact (congrArg (fun u : State => u.stream j) hopen).trans (State.setStream_stream_ne s k _ j (Ne.symm hj))
  case tracker => exact (congrArg (fun u : State => u.tracker k) hopen).trans (s.setTracker_tracker_self k _)
  case trackers =>
    exact (congrArg (fun u : State => u.tracker j) hopen).trans (State.setTracker_tracker_ne s k _ j (Ne.symm hj))
  case rest =>
    rw [congrArg State.streams hopen, congrArg State.trackers hopen]
    exact hopen
  case engine =>
    rw [State.openStream_of_frames hd hfb]
    exact State.openFrames_engine k f s
  case frame =>
    rw [State.openStream_record_of_other hd hn fun _ hi' =>
        State.fallback_not_mem_frames hi' (List.mem_of_getElem? (by rw [List.getElem?_take_of_lt hj, hi])),
      State.openFrames_record_of_frame hd hj hi]
    rfl
  case fallback =>
    have hrecord := State.openStream_record_of_fallback (p := p) (k := k) hd hfb hi
    refine ⟨hrecord, ?_⟩
    rw [hrecord]
    exact State.openStream_engine_of_fallback hd hfb hi
  case others =>
    have hnot (j : Nat) (hj : j < f.recordCount) : s.unassigned[j]? ≠ some i := fun hi' =>
      hi (List.mem_of_getElem? (by rw [List.getElem?_take_of_lt hj, hi']))
    have hframes : i ∉ s.unassigned.take f.frameCount := fun hm =>
      hi (List.take_subset_take_left _ f.frameCount_le hm)
    rw [State.openStream_record_of_other hd hn fun hfb => hnot _ (by simp [RequestFrame.recordCount, hfb]),
      State.openFrames_record_of_other hd hframes]

end Sys2Proof.Machine
end

section
/-! PROOF. LEAVE (R45): the role and the departure. -/

namespace Sys2Proof.Machine

section
variable {s : State} {p : Port} {f : RequestFrame} {t : Time} {k : StreamId} {st : Stream}

theorem Stream.hasConsumer_eq_false_iff : st.hasConsumer p = false ↔ ∀ c ∈ st.consumers, c.port ≠ p := by
  simp [Stream.hasConsumer]

theorem admitsLeave_of_not_closing {x : StreamPhase} (h : ∀ o, x ≠ .closing o) : admitsLeave x = true := by
  cases x with
  | closing o => exact absurd rfl (h o)
  | _ => rfl

/-- LEAVE in a stream that is not CLOSING asks for an entry and departs. -/
theorem leaveRequest_eq (hs : s.InSession p f) (hid : f.field 0 1 = k.val) (hst : s.stream k = some st)
    (ho : ∀ o, st.phase ≠ .closing o) :
    leaveRequest p f t s =
      if st.hasConsumer p then (s.depart p k, .ok [BitVec.ofNat 8 (s.heldIn p k).length])
      else (s, .refuse .notMember) := by
  simp [leaveRequest, checkSession_of_inSession hs, checkStream_of_live admitsLeave hid hst,
    admitsLeave_of_not_closing ho, answer_check]

end

/-- Settles O21: the count of the response is the length of the list of holds. -/
theorem leaveDeparts : Obligations.LeaveDeparts := by
  unfold Obligations.LeaveDeparts
  intro s p f t k st hx hs hk hid hst ho
  have hbody := leaveRequest_eq (t := t) hs hid hst ho
  refine ⟨fun hm => ?member, fun hn => ?notMember⟩
  case member =>
    rw [if_pos ((Stream.hasConsumer_iff ..).2 hm), State.heldIn, ← List.countP_eq_length_filter] at hbody
    exact exec_of_body .leave hx hk hbody
  case notMember =>
    rw [if_neg (by simp [Stream.hasConsumer_eq_false_iff.2 hn])] at hbody
    exact exec_of_body .leave hx hk hbody

end Sys2Proof.Machine
end

section
/-! PROOF. Refused requests (R154): what a sequence of checks answers early, for every body. -/

namespace Sys2Proof.Machine

/-- An answer that refuses and changes nothing but what NO_BUFFER and EXPIRED change. -/
def State.Refuses (s : State) (p : Port) (f : RequestFrame) (x : State × Reply) : Prop :=
  x.2.result ≠ .ok →
    x.1 = s ∨
    (x.2.result = .noBuffer ∧ f.request = some .acquireWrite ∧
      ∃ k st, s.stream k = some st ∧ f.field 0 1 = k.val ∧
        x.1 = s.setStream k (some { st with producerWaiting := true })) ∨
    (x.2.result = .expired ∧ f.handle ∈ (s.port p).expired ∧
      x.1 = s.setPort p { s.port p with expired := (s.port p).expired.filter fun x => x ≠ f.handle })

section
variable {s : State} {p : Port} {f : RequestFrame} {t : Time}

theorem State.Refuses.of_unchanged (r : Reply) : s.Refuses p f (s, r) := fun _ => .inl rfl

theorem State.Refuses.of_ok (u : State) (bytes : List Byte) : s.Refuses p f (u, .ok bytes) :=
  fun h => absurd rfl h

/-! ## Sequences of checks -/

/-- What ends a sequence early refuses, and what comes behind it does too. -/
theorem State.Refuses.bind {α : Type} {c : Checked α} {k : α → Checked (State × Reply)}
    (hc : ∀ x, c = .error x → s.Refuses p f x) (hk : ∀ a, c = .ok a → s.Refuses p f (answer (k a))) :
    s.Refuses p f (answer (c >>= k)) := by
  cases c with
  | error x => exact hc x rfl
  | ok a => exact hk a rfl

/-- A check that changes nothing when it fails. -/
theorem State.Refuses.check (b : Bool) (r : Result) {k : Unit → Checked (State × Reply)}
    (hk : b = true → s.Refuses p f (answer (k ()))) : s.Refuses p f (answer (check b r s >>= k)) := by
  cases b
  · exact .of_unchanged _
  · exact hk rfl

theorem State.Refuses.session {k : Unit → Checked (State × Reply)} (hk : s.Refuses p f (answer (k ()))) :
    s.Refuses p f (answer (checkSession p f s >>= k)) := by
  rw [answer_checkSession]
  split
  · exact .of_unchanged _
  · split
    · exact .of_unchanged _
    · exact hk

theorem State.Refuses.stream {id : Nat} {admits : StreamPhase → Bool}
    {k : StreamId × Stream → Checked (State × Reply)}
    (hk : ∀ j st, id = j.val → s.stream j = some st → s.Refuses p f (answer (k (j, st)))) :
    s.Refuses p f (answer (checkStream id admits s >>= k)) := by
  refine .bind (fun x hx => ?_) fun a ha => hk _ _ (checkStream_ok ha).1 (checkStream_ok ha).2.1
  unfold checkStream at hx
  split at hx
  · split at hx
    · cases hx
      exact .of_unchanged _
    · split at hx
      · cases hx
      · cases hx
        exact .of_unchanged _
  · cases hx
    exact .of_unchanged _

theorem State.Refuses.invalidHandle : s.Refuses p f (invalidHandle p f.handle s) := by
  by_cases h : f.handle ∈ (s.port p).expired
  · rw [invalidHandle_of_mem h]
    exact fun _ => .inr (.inr ⟨rfl, h, rfl⟩)
  · rw [invalidHandle_of_not_mem h]
    exact .of_unchanged _

theorem State.Refuses.handle {admits : StreamPhase → Bool} {kind : Option HandleKind}
    {k : HandleTarget → Checked (State × Reply)} (hk : ∀ x, s.Refuses p f (answer (k x))) :
    s.Refuses p f (answer (checkHandle p f.handle admits kind s >>= k)) := by
  refine .bind (fun x hx => ?_) fun a _ => hk a
  unfold checkHandle at hx
  split at hx
  · cases hx
    exact .invalidHandle
  split at hx
  · cases hx
    exact .invalidHandle
  split at hx
  · cases hx
    exact .of_unchanged _
  split at hx
  · cases hx
    exact .of_unchanged _
  split at hx
  · cases hx
    exact .invalidHandle
  split at hx <;> cases hx
  exact .of_unchanged _

theorem State.Refuses.descriptor {j : Option Nat} {r : Result} {k : Unit → Checked (State × Reply)}
    (hk : s.Refuses p f (answer (k ()))) : s.Refuses p f (answer (checkDescriptor j r s >>= k)) := by
  cases j
  · exact hk
  · exact .of_unchanged _

/-! ## The bodies -/

theorem attachRequest_refuses : s.Refuses p f (attachRequest p f t s) :=
  .check _ _ fun _ => .check _ _ fun _ => .of_ok _ _

theorem openStreamRequest_refuses : s.Refuses p f (openStreamRequest p f t s) := by
  refine .session (.check _ _ fun _ => .descriptor (.descriptor (.check _ _ fun _ => ?_)))
  split
  · exact .of_unchanged _
  · exact .check _ _ fun _ => .check _ _ fun _ => .of_ok _ _

theorem closeStreamRequest_refuses : s.Refuses p f (closeStreamRequest p f t s) :=
  .session (.stream fun _ _ _ _ => .check _ _ fun _ => .of_ok _ _)

theorem joinRequest_refuses : s.Refuses p f (joinRequest p f t s) :=
  .session (.check _ _ fun _ => .stream fun _ _ _ _ => .check _ _ fun _ => .check _ _ fun _ => .check _ _ fun _ =>
    .check _ _ fun _ => .check _ _ fun _ => .of_ok _ _)

theorem leaveRequest_refuses : s.Refuses p f (leaveRequest p f t s) :=
  .session (.stream fun _ _ _ _ => .check _ _ fun _ => .of_ok _ _)

/-- Where no buffer can be given the waiting flag is set (R48). -/
theorem acquireWriteRequest_refuses (hk : f.request = some .acquireWrite) :
    s.Refuses p f (acquireWriteRequest p f t s) := by
  refine .session (.stream fun k st hid hst => .check _ _ fun _ => .check _ _ fun _ => ?_)
  simp only
  split
  · rw [State.modStream_of_live hst]
    exact fun _ => .inr (.inl ⟨rfl, hk, k, st, hst, hid, rfl⟩)
  · exact .check _ _ fun _ => .of_ok _ _

theorem publishRequest_refuses : s.Refuses p f (publishRequest p f t s) :=
  .session (.handle fun _ => .check _ _ fun _ => .of_ok _ _)

theorem discardRequest_refuses : s.Refuses p f (discardRequest p f t s) :=
  .session (.handle fun _ => .of_ok _ _)

theorem fillRequest_refuses : s.Refuses p f (fillRequest p f t s) :=
  .session (.check _ _ fun _ => .handle fun _ => .check _ _ fun _ => .check _ _ fun _ => .check _ _ fun _ =>
    .of_ok _ _)

theorem refillFallbackRequest_refuses : s.Refuses p f (refillFallbackRequest p f t s) := by
  refine .session (.stream fun k st _ _ => .check _ _ fun _ => ?_)
  split
  · exact .of_unchanged _
  · exact .check _ _ fun _ => .check _ _ fun _ => .check _ _ fun _ => .of_ok _ _

theorem acquireReadRequest_refuses : s.Refuses p f (acquireReadRequest p f t s) := by
  refine .session (.stream fun k st _ _ => ?_)
  simp only
  split
  · exact .of_unchanged _
  · refine .check _ _ fun _ => ?_
    split
    · exact .of_unchanged _
    · exact .check _ _ fun _ => .of_ok _ _

theorem releaseRequest_refuses : s.Refuses p f (releaseRequest p f t s) :=
  .session (.handle fun _ => .of_ok _ _)

theorem renewRequest_refuses : s.Refuses p f (renewRequest p f t s) := by
  refine .session (.handle fun x => ?_)
  simp only
  split
  · exact .of_unchanged _
  · exact .of_ok _ _

theorem queryBufferRequest_refuses : s.Refuses p f (queryBufferRequest p f t s) := by
  refine .session ?_
  split
  · exact .of_unchanged _
  · exact .of_unchanged _

/-- Every body refuses without a change, but for the two exceptions. -/
theorem Request.body_refuses {r : Request} (hk : f.request = some r) : s.Refuses p f (r.body p f t s) := by
  cases r with
  | attach => exact attachRequest_refuses (t := t)
  | detach => exact .session (.of_ok _ _)
  | setNoticeMask => exact .session (.check _ _ fun _ => .of_ok _ _)
  | openStream => exact openStreamRequest_refuses (t := t)
  | closeStream => exact closeStreamRequest_refuses (t := t)
  | join => exact joinRequest_refuses (t := t)
  | leave => exact leaveRequest_refuses (t := t)
  | acquireWrite => exact acquireWriteRequest_refuses (t := t) hk
  | publish => exact publishRequest_refuses (t := t)
  | discard => exact discardRequest_refuses (t := t)
  | fill => exact fillRequest_refuses (t := t)
  | refillFallback => exact refillFallbackRequest_refuses (t := t)
  | acquireRead => exact acquireReadRequest_refuses (t := t)
  | release => exact releaseRequest_refuses (t := t)
  | renew => exact renewRequest_refuses (t := t)
  | queryStream => exact .session (.stream fun _ _ _ _ => .of_ok _ _)
  | queryBuffer => exact queryBufferRequest_refuses (t := t)
  | queryDevice => exact .session (.of_ok _ _)

end

/-- Settles O14: an unknown request changes nothing, and the others refuse as their bodies do. -/
theorem refusedRequestsChangeNothing : Obligations.RefusedRequestsChangeNothing := by
  unfold Obligations.RefusedRequestsChangeNothing
  intro s p f t hx
  cases hk : f.request with
  | none =>
    refine ⟨.badRequest, [], s, ?_, fun _ => .inl rfl⟩
    rw [RequestFrame.command, hk]
    exact congrArg Host.Outcome.next (State.runRequest_of_executes _ hx hk)
  | some r =>
    have hrefuses := Request.body_refuses (s := s) (p := p) (t := t) hk
    rw [State.Refuses, hk] at hrefuses
    exact ⟨_, _, _, exec_command_of_body hx hk rfl, hrefuses⟩

end Sys2Proof.Machine
end

section
/-! PROOF. What freeing buffers does beside the record (R54): the context, the ports and the parts that stand. Every
procedure that frees buffers of a stream is a chain of such changes. -/

namespace Sys2Proof.Machine

/-! ## Freed buffers and the notice of the first (R54) -/

theorem State.notify_port (p : Port) (kind : NoticeKind) (k : StreamId) (detail : Option (BitVec 32)) (s : State)
    (q : Port) :
    (s.notify p kind k detail).port q = if q = p then (s.port q).enqueue kind k detail s.timebase else s.port q := by
  rw [State.notify, State.notifyAt, State.modPort, State.setPort_port]
  by_cases h : q = p
  · rw [if_pos h, if_pos h.symm, h]
  · rw [if_neg h, if_neg (Ne.symm h)]

/-- A producer that waits is told of the first buffer freed, and of no other. -/
def AgentPort.tellFreed (k : StreamId) (freed : Option RecordId) (now : Time) (q : AgentPort) : AgentPort :=
  freed.elim q fun i => q.enqueue .bufferAvailable k (some (BitVec.ofNat 32 i.val)) now

/-- What a procedure that frees buffers of stream `k` does to a live context, in the relation `R`, and to the ports:
the producer is told of at most one buffer, of none unless it waited, and waits no more then. -/
structure State.Frees (R : Stream → Stream → Prop) (k : StreamId) (s u : State) : Prop where
  timebase : u.timebase = s.timebase
  trackers : u.trackers = s.trackers
  live : ∀ st, s.stream k = some st → ∃ st' freed, u.stream k = some st' ∧ R st st' ∧
    st'.producer = st.producer ∧
    (st.producerWaiting = false → freed = none ∧ st'.producerWaiting = false) ∧
    (freed ≠ none → st'.producerWaiting = false) ∧
    ∀ q, u.port q = if q = st.producer then (s.port q).tellFreed k freed s.timebase else s.port q

section
variable {R : Stream → Stream → Prop} {k : StreamId} {s t u : State}

theorem State.Frees.of_same (hR : ∀ st, R st st) (htime : u.timebase = s.timebase) (htrackers : u.trackers = s.trackers)
    (hstream : u.stream k = s.stream k) (hports : u.ports = s.ports) : State.Frees R k s u where
  timebase := htime
  trackers := htrackers
  live st hst := by
    refine ⟨st, none, hstream.trans hst, hR st, rfl, fun h => ⟨rfl, h⟩, fun h => absurd rfl h, fun q => ?_⟩
    simp [AgentPort.tellFreed, State.port, hports]

theorem State.Frees.refl (hR : ∀ st, R st st) : State.Frees R k s s := .of_same hR rfl rfl rfl rfl

theorem State.Frees.trans (hR : ∀ x y z, R x y → R y z → R x z) (h : State.Frees R k s t) (h' : State.Frees R k t u) :
    State.Frees R k s u where
  timebase := h'.timebase.trans h.timebase
  trackers := h'.trackers.trans h.trackers
  live st hst := by
    obtain ⟨st1, freed1, hst1, hR1, hp1, hwait1, hfreed1, hq1⟩ := h.live st hst
    obtain ⟨st2, freed2, hst2, hR2, hp2, hwait2, hfreed2, hq2⟩ := h'.live st1 hst1
    cases freed1 with
    | none =>
      refine ⟨st2, freed2, hst2, hR _ _ _ hR1 hR2, hp2.trans hp1, fun hw => hwait2 (hwait1 hw).2, hfreed2, fun q => ?_⟩
      rw [hq2, hq1, hp1, h.timebase]
      simp [AgentPort.tellFreed]
    | some i =>
      obtain ⟨rfl, hw2⟩ := hwait2 (hfreed1 (by simp))
      refine ⟨st2, some i, hst2, hR _ _ _ hR1 hR2, hp2.trans hp1, fun hw => ⟨(hwait1 hw).1, hw2⟩, fun _ => hw2,
        fun q => ?_⟩
      rw [hq2, hq1, hp1]
      split <;> rfl

theorem State.Frees.mono {R' : Stream → Stream → Prop} (hR : ∀ x y, R x y → R' x y) (h : State.Frees R k s u) :
    State.Frees R' k s u where
  timebase := h.timebase
  trackers := h.trackers
  live st hst := by
    obtain ⟨st', freed, hst', hr, hrest⟩ := h.live st hst
    exact ⟨st', freed, hst', hR _ _ hr, hrest⟩

theorem State.Frees.foldl {α : Type} (hR : ∀ st, R st st) (htrans : ∀ x y z, R x y → R y z → R x z)
    (f : State → α → State) (hf : ∀ (s : State) a, State.Frees R k s (f s a)) (l : List α) (s : State) :
    State.Frees R k s (l.foldl f s) := by
  induction l generalizing s with
  | nil => exact .refl hR
  | cons a l ih => exact (hf s a).trans htrans (ih _)

end

/-- The context of a stream changes in its free list and the waiting flag alone. -/
def Stream.FreeOnly (st st' : Stream) : Prop :=
  ∃ free waiting, st' = { st with free := free, producerWaiting := waiting }

theorem Stream.FreeOnly.refl (st : Stream) : Stream.FreeOnly st st := ⟨st.free, st.producerWaiting, rfl⟩

theorem Stream.FreeOnly.trans (x y z : Stream) (h : Stream.FreeOnly x y) (h' : Stream.FreeOnly y z) :
    Stream.FreeOnly x z := by
  obtain ⟨free, waiting, rfl⟩ := h
  obtain ⟨free', waiting', rfl⟩ := h'
  exact ⟨free', waiting', rfl⟩

section
variable (i : RecordId) (k : StreamId) (s : State)

theorem State.becomeFree_frees : State.Frees Stream.FreeOnly k s (s.becomeFree i k) := by
  cases hst : s.stream k with
  | none =>
    rw [State.becomeFree_of_closed hst]
    exact .of_same Stream.FreeOnly.refl rfl rfl rfl rfl
  | some st =>
    rw [State.becomeFree_of_live hst]
    cases hw : st.producerWaiting
    · rw [if_neg (by simp)]
      refine ⟨rfl, rfl, fun st' hst' => ?_⟩
      cases hst.symm.trans hst'
      refine ⟨_, none, State.setStream_stream_self _ _ _, ⟨_, _, rfl⟩, rfl, fun _ => ⟨rfl, rfl⟩, fun h => absurd rfl h,
        fun q => ?_⟩
      split <;> rfl
    · rw [if_pos rfl]
      refine ⟨rfl, rfl, fun st' hst' => ?_⟩
      cases hst.symm.trans hst'
      refine ⟨_, some i, State.setStream_stream_self _ _ _, ⟨_, _, rfl⟩, rfl, fun h => ?_, fun _ => rfl, fun q => ?_⟩
      · rw [hw] at h
        cases h
      · exact State.notify_port ..

theorem State.retire_frees : State.Frees Stream.FreeOnly k s (s.retire i k) := by
  cases h : (s.record i).unheld
  · rw [State.retire_of_held h]
    exact .of_same Stream.FreeOnly.refl rfl rfl rfl rfl
  · rw [State.retire_of_unheld h]
    exact s.becomeFree_frees i k

theorem State.setFillAndFree_frees (e : FillEngine) :
    State.Frees Stream.FreeOnly k s (((s.setEngine e).modRecord i (BufferRecord.setFill .noJob)).becomeFree i k) := by
  have h : State.Frees Stream.FreeOnly k s ((s.setEngine e).modRecord i (BufferRecord.setFill .noJob)) :=
    .of_same Stream.FreeOnly.refl rfl rfl rfl rfl
  exact h.trans Stream.FreeOnly.trans (State.becomeFree_frees i k _)

/-- What the end of a write handle does, by the record's fill and the engine's answer (R64). -/
theorem State.endWriting_cases : s.endWriting i k = s.becomeFree i k ∨
    ∃ tag, ((s.record i).fill = .named tag ∨ (s.record i).fill = .cancelling tag) ∧
      s.endWriting i k =
        if (s.engine.cancel tag).1 = .marked then
          (s.setEngine (s.engine.cancel tag).2).modRecord i fun r => (r.toFrame .settling).setFill (.cancelling tag)
        else ((s.setEngine (s.engine.cancel tag).2).modRecord i (BufferRecord.setFill .noJob)).becomeFree i k := by
  cases hf : (s.record i).fill with
  | noJob => exact .inl (State.endWriting_of_noJob hf)
  | named tag =>
    refine .inr ⟨tag, .inl rfl, ?_⟩
    rcases hc : s.engine.cancel tag with ⟨ans, e⟩
    cases ans <;> simp [State.endWriting, hf, hc]
  | cancelling tag =>
    refine .inr ⟨tag, .inr rfl, ?_⟩
    rcases hc : s.engine.cancel tag with ⟨ans, e⟩
    cases ans <;> simp [State.endWriting, hf, hc]

theorem State.endWriting_frees : State.Frees Stream.FreeOnly k s (s.endWriting i k) := by
  rcases s.endWriting_cases i k with h | ⟨tag, -, h⟩ <;> rw [h]
  · exact s.becomeFree_frees i k
  · split
    · exact .of_same Stream.FreeOnly.refl rfl rfl rfl rfl
    · exact s.setFillAndFree_frees i k _

theorem State.endWriteHandle_frees (p : Port) : State.Frees Stream.FreeOnly k s (s.endWriteHandle i p k) := by
  have h : State.Frees Stream.FreeOnly k s (s.endLease (formHandle .write i (s.record i).generation) p) :=
    .of_same Stream.FreeOnly.refl rfl rfl rfl rfl
  exact h.trans Stream.FreeOnly.trans (State.endWriting_frees i k _)

theorem State.endStreamWrite_frees : State.Frees Stream.FreeOnly k s (s.endStreamWrite k) := by
  unfold State.endStreamWrite
  split
  · exact .refl Stream.FreeOnly.refl
  · exact s.endWriteHandle_frees _ k _

/-- What the cancellation of a fallback's fill does (R34). -/
theorem State.cancelFallbackFill_cases : s.cancelFallbackFill k = s ∨
    ∃ i tag, s.fallbackOf k = some i ∧ ((s.record i).fill = .named tag ∨ (s.record i).fill = .cancelling tag) ∧
      s.cancelFallbackFill k = (s.setEngine (s.engine.cancel tag).2).modRecord i
        (BufferRecord.setFill (if (s.engine.cancel tag).1 = .marked then .cancelling tag else .noJob)) := by
  cases hb : s.fallbackOf k with
  | none => exact .inl (by simp [State.cancelFallbackFill, hb])
  | some i =>
    cases hf : (s.record i).fill with
    | noJob => exact .inl (by simp [State.cancelFallbackFill, hb, hf])
    | named tag =>
      refine .inr ⟨i, tag, rfl, .inl hf, ?_⟩
      rcases hc : s.engine.cancel tag with ⟨ans, e⟩
      cases ans <;> simp [State.cancelFallbackFill, hb, hf, hc]
    | cancelling tag =>
      refine .inr ⟨i, tag, rfl, .inr hf, ?_⟩
      rcases hc : s.engine.cancel tag with ⟨ans, e⟩
      cases ans <;> simp [State.cancelFallbackFill, hb, hf, hc]

theorem State.cancelFallbackFill_frees : State.Frees Stream.FreeOnly k s (s.cancelFallbackFill k) := by
  rcases s.cancelFallbackFill_cases k with h | ⟨i, tag, -, -, h⟩ <;> rw [h]
  · exact .refl Stream.FreeOnly.refl
  · exact .of_same Stream.FreeOnly.refl rfl rfl rfl rfl

/-! ## The record a procedure changes -/

/-- A record that leaves the ready list (R33, R59, R88). -/
def BufferRecord.retired (r : BufferRecord) : BufferRecord := if r.unheld then r.toFrame .free else r.toDraining

theorem BufferRecord.retired_of_unheld {r : BufferRecord} (h : r.unheld = true) : r.retired = r.toFrame .free :=
  if_pos h

theorem BufferRecord.retired_of_held {r : BufferRecord} (h : r.unheld = false) : r.retired = r.toDraining :=
  if_neg (by simp [h])

theorem State.retire_record (j : RecordId) :
    (s.retire i k).record j = if i = j then (s.record i).retired else s.record j := by
  cases h : (s.record i).unheld
  · rw [State.retire_of_held h, State.modRecord, State.setRecord_record, BufferRecord.retired_of_held h]
  · rw [State.retire_of_unheld h, State.becomeFree_record, BufferRecord.retired_of_unheld h]

theorem BufferRecord.retired_retired (r : BufferRecord) : r.retired.retired = r.retired := by
  rcases r with ⟨g, fl, _ | ⟨a, fs⟩ | ⟨a, hold, c⟩⟩
  · rfl
  · cases fs with
    | ready m pending hold | draining m hold =>
      by_cases h : hold = PortSet.empty <;>
        simp [BufferRecord.retired, BufferRecord.unheld, BufferRecord.holdSet, BufferRecord.toFrame,
          BufferRecord.toDraining, PortSet.isEmpty, h]
    | _ => rfl
  · by_cases h : hold = PortSet.empty <;>
      simp [BufferRecord.retired, BufferRecord.unheld, BufferRecord.holdSet, BufferRecord.toFrame,
        BufferRecord.toDraining, PortSet.isEmpty, h]

/-- Retiring the records of a list, whatever their order and number. -/
theorem State.foldl_retire_record (l : List RecordId) (j : RecordId) :
    (l.foldl (fun s i => State.retire i k s) s).record j =
      if j ∈ l then (s.record j).retired else s.record j := by
  induction l generalizing s with
  | nil => rfl
  | cons i l ih =>
    rw [List.foldl_cons, ih, State.retire_record]
    by_cases hij : i = j
    · subst hij
      simp [BufferRecord.retired_retired]
    · simp [hij, Ne.symm hij]

theorem State.endWriting_record_ne {j : RecordId} (h : i ≠ j) : (s.endWriting i k).record j = s.record j := by
  rcases s.endWriting_cases i k with he | ⟨tag, -, he⟩ <;> rw [he]
  · rw [State.becomeFree_record, if_neg h]
  · split
    · rw [State.modRecord, State.setRecord_record_ne _ _ _ _ h, State.setEngine_record]
    · rw [State.becomeFree_record, if_neg h, State.modRecord, State.setRecord_record_ne _ _ _ _ h,
        State.setEngine_record]

/-- The write handle of a stream is that of a record WRITING for a port (R47). -/
theorem State.writer_of_writingOf {p : Port} (h : s.writingOf k = some (i, p)) :
    (s.record i).names k = true ∧ (s.record i).writer = some p := by
  obtain ⟨j, -, hj⟩ := List.exists_of_findSome?_eq_some h
  split at hj
  · next hn =>
    cases hw : (s.record j).writer with
    | none => simp [hw] at hj
    | some q =>
      simp only [hw, Option.map_some, Option.some.injEq, Prod.mk.injEq] at hj
      obtain ⟨rfl, rfl⟩ := hj
      exact ⟨hn, hw⟩
  · cases hj

/-- The end of a stream's write handle leaves every record without a writer as it stands. -/
theorem State.endStreamWrite_record_of_noWriter {j : RecordId} (h : (s.record j).writer = none) :
    (s.endStreamWrite k).record j = s.record j := by
  unfold State.endStreamWrite
  split
  · rfl
  · next i p hw =>
    have hne : i ≠ j := fun hij => by
      rw [← hij, (State.writer_of_writingOf i k s hw).2] at h
      cases h
    exact State.endWriting_record_ne i k _ hne

end

end Sys2Proof.Machine
end

section
/-! PROOF. Entry into CLOSING (R33, R34): its stages up to the completion check, and what each leaves of the context, the
records, the engine and the ports. -/

namespace Sys2Proof.Machine

/-! ## Notices to several ports (R186) -/

/-- A port after notices, each a kind, a stream and a detail. -/
def AgentPort.told (now : Time) (sent : List (NoticeKind × StreamId × Option (BitVec 32))) (q : AgentPort) :
    AgentPort := sent.foldl (fun x n => x.enqueue n.1 n.2.1 n.2.2 now) q

theorem AgentPort.told_append (now : Time) (xs ys : List (NoticeKind × StreamId × Option (BitVec 32)))
    (q : AgentPort) : q.told now (xs ++ ys) = (q.told now xs).told now ys := List.foldl_append ..

/-- A port is told once for each time the list of ports has it. -/
theorem State.notifyEach_port (ps : List Port) (kind : NoticeKind) (k : StreamId) (detail : Option (BitVec 32))
    (s : State) (q : Port) :
    (s.notifyEach ps kind k detail).port q =
      (s.port q).told s.timebase (List.replicate (ps.count q) (kind, k, detail)) := by
  induction ps generalizing s with
  | nil => rfl
  | cons p ps ih =>
    have hcons : s.notifyEach (p :: ps) kind k detail = (s.notify p kind k detail).notifyEach ps kind k detail := rfl
    have htime : (s.notify p kind k detail).timebase = s.timebase := rfl
    rw [hcons, ih, State.notify_port, htime]
    by_cases h : q = p
    · rw [if_pos h, h, List.count_cons_self, List.replicate_succ]
      rfl
    · rw [if_neg h, List.count_cons_of_ne (Ne.symm h)]

theorem State.notifyEach_port_of_nodup {ps : List Port} (hn : ps.Nodup) (kind : NoticeKind) (k : StreamId)
    (detail : Option (BitVec 32)) (s : State) (q : Port) :
    (s.notifyEach ps kind k detail).port q =
      if q ∈ ps then (s.port q).enqueue kind k detail s.timebase else s.port q := by
  rw [State.notifyEach_port, hn.count]
  split <;> rfl

/-! ## The stages (R33, R34) -/

/-- Items 1 and 2: nobody consumes or waits any more, and each consumer is told. -/
def State.membersTold (k : StreamId) (st : Stream) (s : State) : State :=
  (s.setStream k (some { st with producerWaiting := false, consumers := [], ready := [] })).notifyEach
    (st.consumers.map Consumer.port) .streamClosing k none

/-- Item 3: the ready list is gone. -/
def State.framesRetired (k : StreamId) (st : Stream) (s : State) : State :=
  st.ready.foldl (fun s i => State.retire i k s) (s.membersTold k st)

/-- Item 4: the write handle ends. -/
def State.writeEnded (k : StreamId) (st : Stream) (s : State) : State := (s.framesRetired k st).endStreamWrite k

/-- All of the entry but the completion check. -/
def State.closingEntry (k : StreamId) (o : CloseOrigin) (st : Stream) (s : State) : State :=
  (((s.writeEnded k st).cancelFallbackFill k).modTracker k Tracker.clear).modStream k
    fun st => { st with phase := .closing o }

section
variable {s : State} {k : StreamId} {st : Stream} (o : CloseOrigin)

theorem State.enterClosing_eq (hst : s.stream k = some st) :
    s.enterClosing k o = (s.closingEntry k o st).completionCheck k := by
  simp only [State.enterClosing, hst]
  rfl

/-! ## Context, ports and trackers -/

theorem State.membersTold_stream :
    (s.membersTold k st).stream k =
      some { st with producerWaiting := false, consumers := [], ready := [] } := by
  rw [State.membersTold, State.notifyEach_stream, State.setStream_stream_self]

theorem State.membersTold_to_cancelled_frees :
    State.Frees Stream.FreeOnly k (s.membersTold k st) ((s.writeEnded k st).cancelFallbackFill k) :=
  ((State.Frees.foldl Stream.FreeOnly.refl Stream.FreeOnly.trans _ (fun u i => u.retire_frees i k) _ _).trans
    Stream.FreeOnly.trans (State.endStreamWrite_frees k _)).trans Stream.FreeOnly.trans
      (State.cancelFallbackFill_frees k _)

/-- Behind the first items the producer does not wait: no port is told anything more. -/
theorem State.closingEntry_spec :
    (∃ free, (s.closingEntry k o st).stream k = some { st with
      phase := .closing o, producerWaiting := false, consumers := [], ready := [], free := free }) ∧
    (∀ q, (s.closingEntry k o st).port q = (s.membersTold k st).port q) ∧
    (s.closingEntry k o st).trackers = s.trackers.set k (Tracker.cleared (s.tracker k).params) ∧
    (s.closingEntry k o st).timebase = s.timebase := by
  have hfrees := State.membersTold_to_cancelled_frees (s := s) (k := k) (st := st)
  obtain ⟨st', freed, hst', ⟨free, waiting, rfl⟩, -, hwait, -, hports⟩ := hfrees.live _ State.membersTold_stream
  obtain ⟨rfl, hw⟩ := hwait rfl
  cases hw
  have hlive : (((s.writeEnded k st).cancelFallbackFill k).modTracker k Tracker.clear).stream k = _ := hst'
  have htold : (s.membersTold k st).trackers = s.trackers ∧ (s.membersTold k st).timebase = s.timebase := by
    rw [State.membersTold, State.notifyEach_eq]
    exact ⟨rfl, rfl⟩
  have htracker : ((s.writeEnded k st).cancelFallbackFill k).tracker k = s.tracker k := by
    rw [State.tracker, hfrees.trackers, htold.1]
    rfl
  refine ⟨⟨free, ?_⟩, fun q => ?_, ?_, hfrees.timebase.trans htold.2⟩
  · rw [State.closingEntry, State.modStream_of_live hlive, State.setStream_stream_self]
  · exact (hports q).trans (by simp [AgentPort.tellFreed])
  · rw [State.closingEntry, State.modStream, State.setStream_trackers, State.modTracker, State.setTracker_trackers,
      htracker, hfrees.trackers, htold.1]
    rfl

/-! ## What retiring and ending rights leave of a record -/

theorem BufferRecord.writer_retired (r : BufferRecord) : r.retired.writer = none := by
  rcases r with ⟨g, fl, _ | ⟨a, fs⟩ | ⟨a, hold, c⟩⟩
  · rfl
  · cases fs with
    | ready m pending hold | draining m hold =>
      by_cases h : hold = PortSet.empty <;>
        simp [BufferRecord.retired, BufferRecord.unheld, BufferRecord.holdSet, BufferRecord.toFrame,
          BufferRecord.toDraining, PortSet.isEmpty, BufferRecord.writer, h]
    | _ => rfl
  · by_cases h : hold = PortSet.empty <;>
      simp [BufferRecord.retired, BufferRecord.unheld, BufferRecord.holdSet, BufferRecord.toFrame,
        BufferRecord.toDraining, PortSet.isEmpty, BufferRecord.writer, h]

theorem BufferRecord.condition_toFrame (fs : FrameState) (r : BufferRecord) :
    (r.toFrame fs).condition = r.condition := by
  rcases r with ⟨g, fl, _ | _ | _⟩ <;> rfl

theorem BufferRecord.condition_toDraining (r : BufferRecord) : r.toDraining.condition = r.condition := by
  rcases r with ⟨g, fl, _ | ⟨a, fs⟩ | _⟩
  · rfl
  · cases fs <;> rfl
  · rfl

theorem BufferRecord.condition_retired (r : BufferRecord) : r.retired.condition = r.condition := by
  unfold BufferRecord.retired
  split
  · exact r.condition_toFrame _
  · exact r.condition_toDraining

theorem BufferRecord.assignment_retired (r : BufferRecord) : r.retired.assignment = r.assignment := by
  unfold BufferRecord.retired
  split
  · exact r.assignment_toFrame _
  · exact r.assignment_toDraining

theorem BufferRecord.names_congr {r r' : BufferRecord} (h : r'.assignment = r.assignment) (k : StreamId) :
    r'.names k = r.names k := by
  rw [BufferRecord.names, h, BufferRecord.names]

/-- A fallback record is no frame that could be retired. -/
theorem BufferRecord.retired_of_fallback {r : BufferRecord} (h : r.condition.isSome = true) : r.retired = r := by
  rcases r with ⟨g, fl, _ | _ | ⟨a, hold, c⟩⟩
  · cases h
  · cases h
  · by_cases he : hold = PortSet.empty <;>
      simp [BufferRecord.retired, BufferRecord.unheld, BufferRecord.holdSet, BufferRecord.toFrame,
        BufferRecord.toDraining, PortSet.isEmpty, he]

theorem BufferRecord.writer_of_fallback {r : BufferRecord} (h : r.condition.isSome = true) : r.writer = none := by
  rcases r with ⟨g, fl, _ | _ | _⟩
  · rfl
  · cases h
  · rfl

/-- A READY record retired: FREE, or DRAINING with its holders (R33). -/
theorem BufferRecord.retired_of_ready {r : BufferRecord} {a : Assignment} {m : FrameStamp} {owed : Option PortSet}
    {hold : PortSet} (h : r.use = .frame a (.ready m owed hold)) : r.retired = { r with
      use := if hold = PortSet.empty then .frame a .free else .frame a (.draining m hold) } := by
  by_cases he : hold = PortSet.empty
  · rw [if_pos he, BufferRecord.retired_of_unheld (by simp [BufferRecord.unheld, BufferRecord.holdSet, h, he,
      PortSet.isEmpty]), BufferRecord.toFrame_of_frame h]
  · rw [if_neg he, BufferRecord.retired_of_held (by simp [BufferRecord.unheld, BufferRecord.holdSet, h, he,
      PortSet.isEmpty])]
    simp [BufferRecord.toDraining, h]

/-- The end of a write handle changes the state and the fill of a record, not its role or its assignment. -/
theorem State.endWriting_record_reads (i : RecordId) (k : StreamId) (s : State) (j : RecordId) :
    ((s.endWriting i k).record j).condition = (s.record j).condition ∧
      ((s.endWriting i k).record j).assignment = (s.record j).assignment := by
  by_cases hij : i = j
  · subst hij
    rcases s.endWriting_cases i k with h | ⟨tag, -, h⟩ <;> rw [h]
    · rw [State.becomeFree_record, if_pos rfl]
      exact ⟨BufferRecord.condition_toFrame _ _, BufferRecord.assignment_toFrame _ _⟩
    · split
      · rw [State.modRecord, State.setRecord_record_self]
        exact ⟨BufferRecord.condition_toFrame _ _, BufferRecord.assignment_toFrame _ _⟩
      · rw [State.becomeFree_record, if_pos rfl, State.modRecord, State.setRecord_record_self]
        exact ⟨BufferRecord.condition_toFrame _ _, BufferRecord.assignment_toFrame _ _⟩
  · rw [State.endWriting_record_ne i k s hij]
    exact ⟨rfl, rfl⟩

theorem State.endStreamWrite_record_reads (k : StreamId) (s : State) (j : RecordId) :
    ((s.endStreamWrite k).record j).condition = (s.record j).condition ∧
      ((s.endStreamWrite k).record j).assignment = (s.record j).assignment := by
  unfold State.endStreamWrite
  split
  · exact ⟨rfl, rfl⟩
  · exact State.endWriting_record_reads _ k _ j

theorem State.fallbackOf_congr {s u : State} {k : StreamId}
    (h : ∀ j, (u.record j).condition = (s.record j).condition ∧ (u.record j).assignment = (s.record j).assignment) :
    u.fallbackOf k = s.fallbackOf k := by
  unfold State.fallbackOf
  congr 1
  funext j
  rw [(h j).1, BufferRecord.names_congr (h j).2]

theorem State.condition_of_fallbackOf {s : State} {k : StreamId} {i : RecordId} (h : s.fallbackOf k = some i) :
    (s.record i).condition.isSome = true ∧ (s.record i).names k = true := by
  simpa using List.find?_some h

/-! ## The write handle of a stream -/

theorem State.writingOf_of_unique {s : State} {k : StreamId} {i : RecordId} {p : Port}
    (hn : (s.record i).names k = true) (hw : (s.record i).writer = some p)
    (hother : ∀ j, j ≠ i → (s.record j).names k = true → (s.record j).writer = none) :
    s.writingOf k = some (i, p) := by
  cases h : s.writingOf k with
  | none =>
    have hnone := (s.writingOf_isNone_iff k).1 (by rw [h]; rfl)
    exact absurd hnone (State.not_noWriter hn hw)
  | some x =>
    obtain ⟨j, q⟩ := x
    obtain ⟨hnj, hwj⟩ := State.writer_of_writingOf j k s h
    by_cases hji : j = i
    · subst hji
      rw [hw] at hwj
      cases hwj
      rfl
    · rw [hother j hji hnj] at hwj
      cases hwj

theorem State.endStreamWrite_of_writer {s : State} {k : StreamId} {i : RecordId} {p : Port}
    (h : s.writingOf k = some (i, p)) : s.endStreamWrite k = s.endWriteHandle i p k := by
  simp [State.endStreamWrite, h]

theorem State.endStreamWrite_of_noWriter {s : State} {k : StreamId} (h : s.NoWriter k) : s.endStreamWrite k = s := by
  have hnone := (s.writingOf_isNone_iff k).2 h
  rw [Option.isNone_iff_eq_none] at hnone
  simp [State.endStreamWrite, hnone]

/-! ## The engine's answers (R139) -/

theorem FillEngine.isHead_cancel (tag tag' : BitVec 8) (e : FillEngine) :
    (e.cancel tag').2.isHead tag = e.isHead tag := by
  unfold FillEngine.cancel
  split
  · split
    · cases hj : e.jobs <;> simp [FillEngine.isHead, FillEngine.headStarted, hj]
    · rfl
  · next hnot =>
    cases hstarted : e.headStarted
    · have : FillEngine.headStarted { e with jobs := e.jobs.filter fun j => j.tag ≠ tag' } = false := hstarted
      rw [FillEngine.isHead, FillEngine.isHead, hstarted, this, Bool.false_and, Bool.false_and]
    · cases hj : e.jobs with
      | nil => simp [FillEngine.isHead, FillEngine.headStarted, hj]
      | cons j js =>
        have hne : j.tag ≠ tag' := by simpa [FillEngine.isHead, hstarted, hj] using hnot
        simp [FillEngine.isHead, FillEngine.headStarted, hj, hne]

/-- The answer turns on the place of the job and the engine's state. -/
theorem FillEngine.cancel_fst_congr {e e' : FillEngine} {tag : BitVec 8} (hhead : e'.isHead tag = e.isHead tag)
    (hstate : e'.state = e.state) : (e'.cancel tag).1 = (e.cancel tag).1 := by
  unfold FillEngine.cancel
  rw [hhead, hstate]
  split
  · split <;> rfl
  · rfl

/-- Whether a cancel marks its job is not changed by a cancel before it. -/
theorem FillEngine.cancel_cancel_fst (tag tag' : BitVec 8) (e : FillEngine) :
    ((e.cancel tag').2.cancel tag).1 = (e.cancel tag).1 :=
  FillEngine.cancel_fst_congr (e.isHead_cancel tag tag') (e.cancel_state tag')

end

end Sys2Proof.Machine
end

section
/-! PROOF. What every procedure of closing and of departures does to rights and ports (R33–R39, R54, R64, R83, R86–R90):
no port gains a write handle or a lease, and ports change by notices of five kinds alone. -/

namespace Sys2Proof.Machine

/-! ## Lease entries (R95, R99) -/

/-- The table has no entry of a handle and a port. -/
def State.NoLease (s : State) (h : BitVec 16) (p : Port) : Prop := ∀ e ∈ s.leases, ¬(e.handle = h ∧ e.port = p)

/-- The timer's look marks an entry at most: it adds none. -/
theorem mem_lookLeases {now : Time} {t : List LeaseEntry} {e : LeaseEntry} (he : e ∈ lookLeases now t) :
    ∃ e' ∈ t, e'.handle = e.handle ∧ e'.port = e.port := by
  unfold lookLeases at he
  split at he
  · exact ⟨e, he, rfl, rfl⟩
  · cases t with
    | nil => cases he
    | cons x xs =>
      simp only at he
      split at he
      · rcases List.mem_cons.1 he with rfl | he
        · exact ⟨x, List.mem_cons_self, rfl, rfl⟩
        · exact ⟨e, List.mem_cons_of_mem _ he, rfl, rfl⟩
      · exact ⟨e, he, rfl, rfl⟩

/-- What is left behind the removal of an entry was there before, and is not of its handle and port. -/
theorem mem_removeLease {now : Time} {h : BitVec 16} {p : Port} {t : List LeaseEntry} {e : LeaseEntry}
    (he : e ∈ removeLease now h p t) :
    (∃ e' ∈ t, e'.handle = e.handle ∧ e'.port = e.port) ∧ ¬(e.handle = h ∧ e.port = p) := by
  have hfiltered : ∃ e' ∈ t.filter fun e => !e.isOf h p, e'.handle = e.handle ∧ e'.port = e.port := by
    unfold removeLease at he
    split at he
    · exact mem_lookLeases he
    · exact ⟨e, he, rfl, rfl⟩
  obtain ⟨e', he', hh, hp⟩ := hfiltered
  obtain ⟨hmem, hnot⟩ := List.mem_filter.1 he'
  refine ⟨⟨e', hmem, hh, hp⟩, fun heq => ?_⟩
  rw [(LeaseEntry.isOf_iff h p e').2 ⟨hh.trans heq.1, hp.trans heq.2⟩] at hnot
  cases hnot

theorem State.endLease_noLease (h : BitVec 16) (p : Port) (s : State) : (s.endLease h p).NoLease h p :=
  fun _ he => (mem_removeLease he).2

/-! ## The relation -/

/-- The kinds of notices that closing and departures send. -/
def windKinds : List NoticeKind := [.consumerLeft, .bufferAvailable, .streamClosing, .streamClosed, .producerGone]

/-- No port gains a write handle or a lease, and ports change by notices of those kinds alone. -/
structure State.Winds (s u : State) : Prop where
  timebase : u.timebase = s.timebase
  writer : ∀ i q, (u.record i).writer = some q → (s.record i).writer = some q
  leases : ∀ h p, s.NoLease h p → u.NoLease h p
  told : ∀ q, ∃ sent, (∀ n ∈ sent, n.1 ∈ windKinds) ∧ u.port q = (s.port q).told s.timebase sent

section
variable {s t u : State}

/-- Ports that stand have been told nothing. -/
theorem State.Winds.of_ports (htime : u.timebase = s.timebase)
    (hwriter : ∀ i q, (u.record i).writer = some q → (s.record i).writer = some q)
    (hleases : ∀ h p, s.NoLease h p → u.NoLease h p) (hports : u.ports = s.ports) : s.Winds u :=
  ⟨htime, hwriter, hleases, fun q => ⟨[], by simp, by simp [AgentPort.told, State.port, hports]⟩⟩

theorem State.Winds.refl (s : State) : s.Winds s := .of_ports rfl (fun _ _ => id) (fun _ _ => id) rfl

theorem State.Winds.trans (h : s.Winds t) (h' : t.Winds u) : s.Winds u where
  timebase := h'.timebase.trans h.timebase
  writer i q := h.writer i q ∘ h'.writer i q
  leases hd p := h'.leases hd p ∘ h.leases hd p
  told q := by
    obtain ⟨sent, hkinds, hq⟩ := h.told q
    obtain ⟨sent', hkinds', hq'⟩ := h'.told q
    refine ⟨sent ++ sent', fun n hn => (List.mem_append.1 hn).elim (hkinds n) (hkinds' n), ?_⟩
    rw [hq', hq, h.timebase, AgentPort.told_append]

theorem State.Winds.foldl {α : Type} (f : State → α → State) (hf : ∀ (s : State) a, s.Winds (f s a)) (l : List α)
    (s : State) : s.Winds (l.foldl f s) := by
  induction l generalizing s with
  | nil => exact .refl s
  | cons a l ih => exact (hf s a).trans (ih _)

end

/-! ## Single updates -/

section
variable (s : State) (k : StreamId) (i : RecordId) (p : Port)

theorem State.setStream_winds (c : Option Stream) : s.Winds (s.setStream k c) :=
  .of_ports rfl (fun _ _ => id) (fun _ _ => id) rfl

theorem State.modStream_winds (f : Stream → Stream) : s.Winds (s.modStream k f) := s.setStream_winds k _

theorem State.modTracker_winds (f : Tracker → Tracker) : s.Winds (s.modTracker k f) :=
  .of_ports rfl (fun _ _ => id) (fun _ _ => id) rfl

theorem State.setEngine_winds (e : FillEngine) : s.Winds (s.setEngine e) :=
  .of_ports rfl (fun _ _ => id) (fun _ _ => id) rfl

theorem State.endLease_winds (h : BitVec 16) : s.Winds (s.endLease h p) := by
  refine .of_ports rfl (fun _ _ => id) (fun h' p' hno e he heq => ?_) rfl
  obtain ⟨⟨e', he', hh, hp⟩, -⟩ := mem_removeLease he
  exact hno e' he' ⟨hh.trans heq.1, hp.trans heq.2⟩

theorem State.modRecord_winds {f : BufferRecord → BufferRecord} (hf : ∀ r, (f r).writer = none ∨ (f r).writer = r.writer) :
    s.Winds (s.modRecord i f) := by
  refine .of_ports rfl (fun j q hq => ?_) (fun _ _ => id) rfl
  rw [State.modRecord, State.setRecord_record] at hq
  split at hq
  · next hij =>
    subst hij
    rcases hf (s.record i) with h | h <;> rw [h] at hq
    · cases hq
    · exact hq
  · exact hq

theorem State.notify_winds {kind : NoticeKind} (hk : kind ∈ windKinds) (detail : Option (BitVec 32)) :
    s.Winds (s.notify p kind k detail) := by
  refine ⟨rfl, fun _ _ => id, fun _ _ => id, fun q => ?_⟩
  rw [State.notify_port]
  split
  · exact ⟨[(kind, k, detail)], by simpa using hk, rfl⟩
  · exact ⟨[], by simp, rfl⟩

theorem State.notifyEach_winds (ps : List Port) {kind : NoticeKind} (hk : kind ∈ windKinds)
    (detail : Option (BitVec 32)) : s.Winds (s.notifyEach ps kind k detail) :=
  .foldl _ (fun s p => s.notify_winds k p hk detail) ps s

/-! ## Writers -/

theorem BufferRecord.writer_toFrame_of_not_writing {fs : FrameState} (hfs : ∀ p, fs ≠ .writing p) (r : BufferRecord) :
    (r.toFrame fs).writer = none ∨ (r.toFrame fs).writer = r.writer := by
  rcases r with ⟨g, fl, _ | ⟨a, fs'⟩ | _⟩
  · exact .inr rfl
  · refine .inl ?_
    cases fs with
    | writing p => exact absurd rfl (hfs p)
    | _ => rfl
  · exact .inr rfl

theorem BufferRecord.writer_toDraining (r : BufferRecord) : r.toDraining.writer = r.writer := by
  rcases r with ⟨g, fl, _ | ⟨a, fs⟩ | _⟩
  · rfl
  · cases fs <;> rfl
  · rfl

theorem BufferRecord.writer_mapHold (f : PortSet → PortSet) (r : BufferRecord) : (r.mapHold f).writer = r.writer := by
  rcases r with ⟨g, fl, _ | ⟨a, fs⟩ | _⟩
  · rfl
  · cases fs <;> rfl
  · rfl

theorem BufferRecord.writer_mapPending (f : PortSet → PortSet) (r : BufferRecord) :
    (r.mapPending f).writer = r.writer := by
  rcases r with ⟨g, fl, _ | ⟨a, fs⟩ | _⟩
  · rfl
  · cases fs <;> rfl
  · rfl

/-! ## Procedures -/

theorem State.becomeFree_winds : s.Winds (s.becomeFree i k) := by
  have hrecord := s.modRecord_winds i (BufferRecord.writer_toFrame_of_not_writing (fs := .free) (by simp))
  cases hst : s.stream k with
  | none =>
    rw [State.becomeFree_of_closed hst]
    exact hrecord
  | some st =>
    have hfreed : s.Winds (s.freed i k st) := hrecord.trans (State.setStream_winds _ k _)
    rw [State.becomeFree_of_live hst]
    split
    · exact hfreed.trans (State.notify_winds _ k _ (by decide) _)
    · exact hfreed

theorem State.retire_winds : s.Winds (s.retire i k) := by
  unfold State.retire
  split
  · exact s.becomeFree_winds k i
  · exact s.modRecord_winds i fun r => .inr r.writer_toDraining

theorem State.endWriting_winds : s.Winds (s.endWriting i k) := by
  rcases s.endWriting_cases i k with h | ⟨tag, -, h⟩ <;> rw [h]
  · exact s.becomeFree_winds k i
  · split
    · exact (s.setEngine_winds _).trans (State.modRecord_winds _ i
        (BufferRecord.writer_toFrame_of_not_writing (fs := .settling) (by simp)))
    · exact ((s.setEngine_winds _).trans
        (State.modRecord_winds _ i (f := BufferRecord.setFill .noJob) fun _ => .inr rfl)).trans
          (State.becomeFree_winds _ k i)

theorem State.endWriteHandle_winds : s.Winds (s.endWriteHandle i p k) :=
  (s.endLease_winds p _).trans (State.endWriting_winds _ k i)

theorem State.endStreamWrite_winds : s.Winds (s.endStreamWrite k) := by
  unfold State.endStreamWrite
  split
  · exact .refl s
  · exact s.endWriteHandle_winds k _ _

theorem State.cancelFallbackFill_winds : s.Winds (s.cancelFallbackFill k) := by
  rcases s.cancelFallbackFill_cases k with h | ⟨i, tag, -, -, h⟩ <;> rw [h]
  · exact .refl s
  · exact (s.setEngine_winds _).trans (State.modRecord_winds _ i fun _ => .inr rfl)

theorem State.completeClose_winds (st : Stream) (o : CloseOrigin) : s.Winds (s.completeClose k st o) := by
  obtain ⟨u, hclose, hu, hrecord⟩ := s.completeClose_spec k st o
  have hunassigned : s.Winds u := by
    refine .of_ports (by rw [hu]; rfl) (fun j q hq => ?_) (fun _ _ hno e he => hno e (by rwa [hu] at he))
      (by rw [hu]; rfl)
    rw [hrecord] at hq
    split at hq
    · cases hq
    · exact hq
  rw [hclose]
  split
  · exact hunassigned.trans (State.notify_winds _ k _ (by decide) _)
  · exact hunassigned

theorem State.completionCheck_winds : s.Winds (s.completionCheck k) := by
  unfold State.completionCheck
  split
  · exact .refl s
  · split
    · split
      · exact s.completeClose_winds k _ _
      · exact .refl s
    · exact .refl s

theorem State.enterClosing_winds (o : CloseOrigin) : s.Winds (s.enterClosing k o) := by
  cases hst : s.stream k with
  | none =>
    rw [State.enterClosing, hst]
    exact .refl s
  | some st =>
    have htold : s.Winds (s.membersTold k st) :=
      (s.setStream_winds k _).trans (State.notifyEach_winds _ k _ (by decide) _)
    have hretired : s.Winds (s.framesRetired k st) :=
      htold.trans (State.Winds.foldl _ (fun s i => s.retire_winds k i) _ _)
    have hentry : s.Winds (s.closingEntry k o st) :=
      (((hretired.trans (State.endStreamWrite_winds _ k)).trans (State.cancelFallbackFill_winds _ k)).trans
        (State.modTracker_winds _ k _)).trans (State.modStream_winds _ k _)
    rw [State.enterClosing_eq o hst]
    exact hentry.trans (State.completionCheck_winds _ k)

theorem State.endHold_winds : s.Winds (s.endHold i p k) := by
  have h := (s.modRecord_winds i fun r => .inr (r.writer_mapHold fun x => x.drop p)).trans
    (State.modStream_winds _ k (Stream.modConsumer p fun c => { c with readHolds := c.readHolds - 1 }))
  simp only [State.endHold]
  split
  · exact h.trans (State.becomeFree_winds _ k i)
  · exact h

theorem State.releaseHold_winds : s.Winds (s.releaseHold i p k) :=
  (s.endLease_winds p _).trans (State.endHold_winds _ k i p)

theorem State.releaseHolds_winds : s.Winds (s.releaseHolds p k) :=
  .foldl _ (fun s i => s.releaseHold_winds k i p) _ s

theorem State.dropOwed_winds : s.Winds (s.dropOwed p k i) := by
  have h := s.modRecord_winds i fun r => .inr (r.writer_mapPending fun x => x.drop p)
  unfold State.dropOwed
  split
  · exact .refl s
  · simp only
    split
    · exact (h.trans (State.modStream_winds _ k _)).trans (State.retire_winds _ k i)
    · exact h

theorem State.dropAllOwed_winds : s.Winds (s.dropAllOwed p k) := by
  unfold State.dropAllOwed
  split
  · exact .refl s
  · split
    · exact .foldl _ (fun s i => s.dropOwed_winds k i p) _ s
    · exact .refl s

theorem State.dropEntry_winds : s.Winds (s.dropEntry p k) := by
  unfold State.dropEntry
  split
  · exact .refl s
  · simp only
    split
    · exact (s.setStream_winds k _).trans (State.notify_winds _ k _ (by decide) _)
    · exact s.setStream_winds k _

theorem State.orphanCheck_winds : s.Winds (s.orphanCheck k) := by
  unfold State.orphanCheck
  split
  · exact .refl s
  · split
    · exact s.enterClosing_winds k _
    · exact .refl s

theorem State.depart_winds : s.Winds (s.depart p k) :=
  (((s.releaseHolds_winds k p).trans (State.dropAllOwed_winds _ k p)).trans (State.dropEntry_winds _ k p)).trans
    (State.orphanCheck_winds _ k)

theorem State.departIfMember_winds : s.Winds (s.departIfMember p k) := by
  unfold State.departIfMember
  split
  · exact .refl s
  · split
    · exact s.depart_winds k p
    · exact .refl s

theorem State.releaseInClosing_winds : s.Winds (s.releaseInClosing p k) := by
  unfold State.releaseInClosing
  split
  · exact .refl s
  · split
    · split
      · exact .refl s
      · exact (s.releaseHolds_winds k p).trans (State.completionCheck_winds _ k)
    · exact .refl s

theorem State.orphan_winds : s.Winds (s.orphan k) := by
  unfold State.orphan
  split
  · exact .refl s
  · exact ((s.setStream_winds k _).trans (State.modTracker_winds _ k _)).trans
      (State.notifyEach_winds _ k _ (by decide) _)

theorem State.dropProducer_winds : s.Winds (s.dropProducer p k) := by
  have h := (s.endStreamWrite_winds k).trans
    (State.modStream_winds _ k fun st => { st with producerPresent := false })
  unfold State.dropProducer
  split
  · exact .refl s
  · split
    · simp only
      split
      · exact h.trans (State.enterClosing_winds _ k _)
      · split
        · exact h.trans (State.enterClosing_winds _ k _)
        · exact h.trans (State.orphan_winds _ k)
      · exact h
    · exact .refl s

end

end Sys2Proof.Machine
end

section
/-! PROOF. Entry into CLOSING (R33, R34, R36), and CLOSE_STREAM (R32). -/

namespace Sys2Proof.Machine

section
variable {s : State} {k : StreamId} {st : Stream} {i : RecordId} (o : CloseOrigin)

/-! ## The records before the completion check -/

theorem State.membersTold_record (j : RecordId) : (s.membersTold k st).record j = s.record j := by
  rw [State.membersTold, State.notifyEach_record, State.setStream_record]

theorem State.framesRetired_record (j : RecordId) :
    (s.framesRetired k st).record j = if j ∈ st.ready then (s.record j).retired else s.record j := by
  rw [State.framesRetired, State.foldl_retire_record, State.membersTold_record]

theorem State.framesRetired_record_reads (j : RecordId) :
    ((s.framesRetired k st).record j).condition = (s.record j).condition ∧
      ((s.framesRetired k st).record j).assignment = (s.record j).assignment := by
  rw [State.framesRetired_record]
  split
  · exact ⟨BufferRecord.condition_retired _, BufferRecord.assignment_retired _⟩
  · exact ⟨rfl, rfl⟩

theorem State.writeEnded_record_reads (j : RecordId) :
    ((s.writeEnded k st).record j).condition = (s.record j).condition ∧
      ((s.writeEnded k st).record j).assignment = (s.record j).assignment := by
  obtain ⟨hc, ha⟩ := State.endStreamWrite_record_reads k (s.framesRetired k st) j
  obtain ⟨hc', ha'⟩ := State.framesRetired_record_reads (s := s) (k := k) (st := st) j
  exact ⟨hc.trans hc', ha.trans ha'⟩

/-- The cancellation of a fallback's fill leaves every frame buffer as it stands. -/
theorem State.cancelFallbackFill_record_of_frame {u : State} {j : RecordId} (h : (u.record j).condition = none) :
    (u.cancelFallbackFill k).record j = u.record j := by
  rcases u.cancelFallbackFill_cases k with hc | ⟨i, tag, hb, -, hc⟩ <;> rw [hc]
  have hne : i ≠ j := fun hij => by
    have := (State.condition_of_fallbackOf hb).1
    rw [hij, h] at this
    cases this
  rw [State.modRecord, State.setRecord_record_ne _ _ _ _ hne, State.setEngine_record]

theorem State.closingEntry_record (j : RecordId) :
    (s.closingEntry k o st).record j = ((s.writeEnded k st).cancelFallbackFill k).record j := by
  rw [State.closingEntry, State.modStream, State.setStream_record, State.modTracker, State.setTracker_record]

theorem State.closingEntry_record_of_frame {j : RecordId} (h : (s.record j).condition = none) :
    (s.closingEntry k o st).record j = (s.writeEnded k st).record j :=
  State.cancelFallbackFill_record_of_frame (State.writeEnded_record_reads j |>.1.trans h)

theorem State.closingEntry_record_names (j : RecordId) :
    ((s.closingEntry k o st).record j).names k = (s.record j).names k := by
  rw [← BufferRecord.names_congr (State.writeEnded_record_reads (s := s) (k := k) (st := st) j).2,
    State.closingEntry_record]
  rcases (s.writeEnded k st).cancelFallbackFill_cases k with h | ⟨i, tag, -, -, h⟩ <;> rw [h]
  rw [State.modRecord, State.setRecord_record]
  split
  · next hij =>
    subst hij
    rfl
  · rfl

/-! ## The engine -/

theorem State.becomeFree_engine (i : RecordId) (u : State) : (u.becomeFree i k).engine = u.engine := by
  cases h : u.stream k with
  | none => rw [State.becomeFree_of_closed h]; rfl
  | some st =>
    rw [State.becomeFree_of_live h]
    split <;> rfl

theorem State.retire_engine (i : RecordId) (u : State) : (u.retire i k).engine = u.engine := by
  unfold State.retire
  split
  · exact State.becomeFree_engine i u
  · rfl

theorem State.framesRetired_engine : (s.framesRetired k st).engine = s.engine := by
  have htold : (s.membersTold k st).engine = s.engine := by
    rw [State.membersTold, State.notifyEach_eq]
    rfl
  refine Eq.trans ?_ htold
  exact List.foldlRecOn (motive := fun u : State => u.engine = (s.membersTold k st).engine) _ _ rfl
    fun u hu i _ => (State.retire_engine i u).trans hu

theorem State.endWriting_engine (u : State) : (u.endWriting i k).engine = u.engine ∨
    ∃ tag, (u.endWriting i k).engine = (u.engine.cancel tag).2 := by
  rcases u.endWriting_cases i k with h | ⟨tag, -, h⟩ <;> rw [h]
  · exact .inl (State.becomeFree_engine i u)
  · refine .inr ⟨tag, ?_⟩
    split
    · rfl
    · rw [State.becomeFree_engine]
      rfl

/-- A cancel of the fallback's fill is answered as it would have been before the entry. -/
theorem State.writeEnded_cancel_fst (tag : BitVec 8) :
    ((s.writeEnded k st).engine.cancel tag).1 = (s.engine.cancel tag).1 := by
  have hengine : (s.writeEnded k st).engine = s.engine ∨
      ∃ tag', (s.writeEnded k st).engine = (s.engine.cancel tag').2 := by
    rw [← State.framesRetired_engine (s := s) (k := k) (st := st), State.writeEnded, State.endStreamWrite]
    split
    · exact .inl rfl
    · exact State.endWriting_engine _
  rcases hengine with h | ⟨tag', h⟩ <;> rw [h]
  exact FillEngine.cancel_cancel_fst tag tag' _

theorem State.framesRetired_noWriter (h : s.NoWriter k) : (s.framesRetired k st).NoWriter k := by
  intro j hn
  rw [BufferRecord.names_congr (State.framesRetired_record_reads j).2] at hn
  rw [State.framesRetired_record]
  split
  · exact BufferRecord.writer_retired _
  · exact h j hn

/-! ## The completion check at the end (R35, R36) -/

/-- The entry either stands as it is, the stream CLOSING, or completes the close. -/
theorem State.enterClosing_cases (hst : s.stream k = some st) :
    s.enterClosing k o = s.closingEntry k o st ∨
    ∃ w : State, s.enterClosing k o =
        (if o = .request ∧ st.producerPresent = true then w.notify st.producer .streamClosed k none else w) ∧
      w = { (s.closingEntry k o st).setStream k none with records := w.records } ∧
      ∀ i, (s.record i).names k = true → (w.record i).use = .unassigned := by
  obtain ⟨⟨free, hlive⟩, -⟩ := State.closingEntry_spec (s := s) (k := k) (st := st) o
  rw [State.enterClosing_eq o hst, State.completionCheck_of_closing hlive rfl]
  split
  · obtain ⟨w, hclose, hw, hrecord⟩ := (s.closingEntry k o st).completeClose_spec k
      { st with phase := .closing o, producerWaiting := false, consumers := [], ready := [], free := free } o
    refine .inr ⟨w, hclose, hw, fun i hn => ?_⟩
    rw [hrecord, State.closingEntry_record_names, if_pos hn]
  · exact .inl rfl

theorem State.enterClosing_of_live (hst : s.stream k = some st) (h : (s.enterClosing k o).stream k ≠ none) :
    s.enterClosing k o = s.closingEntry k o st := by
  rcases State.enterClosing_cases o hst with he | ⟨w, he, hw, -⟩
  · exact he
  · refine absurd ?_ h
    have hnone : w.stream k = none := by
      rw [hw]
      exact State.setStream_stream_self _ _ _
    rw [he]
    split
    · exact hnone
    · exact hnone

end

end Sys2Proof.Machine
end

section
/-! PROOF. Entry into CLOSING (R33, R34, R36), clause by clause, and CLOSE_STREAM (R32). -/

namespace Sys2Proof.Machine

section
variable {s : State} {k : StreamId} {st : Stream} {i : RecordId} (o : CloseOrigin)

/-! ## Context, trackers and ports -/

/-- What the completion check leaves of the entry. -/
theorem State.enterClosing_parts (hst : s.stream k = some st) :
    (s.enterClosing k o).trackers = (s.closingEntry k o st).trackers ∧
      (s.enterClosing k o).engine = (s.closingEntry k o st).engine := by
  rcases State.enterClosing_cases o hst with he | ⟨w, he, hw, -⟩
  · rw [he]
    exact ⟨rfl, rfl⟩
  · rw [he, hw]
    split <;> exact ⟨rfl, rfl⟩

theorem State.enterClosing_stream (hst : s.stream k = some st) {st' : Stream}
    (h : (s.enterClosing k o).stream k = some st') : ∃ free, st' = { st with
      phase := .closing o, producerWaiting := false, consumers := [], ready := [], free := free } := by
  obtain ⟨⟨free, hlive⟩, -⟩ := State.closingEntry_spec (s := s) (k := k) (st := st) o
  rw [State.enterClosing_of_live o hst (by simp [h]), hlive] at h
  cases h
  exact ⟨free, rfl⟩

theorem State.enterClosing_tracker (hst : s.stream k = some st) :
    (s.enterClosing k o).tracker k = Tracker.cleared (s.tracker k).params := by
  obtain ⟨-, -, htrackers, -⟩ := State.closingEntry_spec (s := s) (k := k) (st := st) o
  rw [State.tracker, (State.enterClosing_parts o hst).1, htrackers]
  exact Vector.getElem_set_self _

theorem State.enterClosing_unassigned (hst : s.stream k = some st) (h : (s.enterClosing k o).stream k = none)
    (hn : (s.record i).names k = true) : ((s.enterClosing k o).record i).use = .unassigned := by
  rcases State.enterClosing_cases o hst with he | ⟨w, he, -, hrecord⟩
  · obtain ⟨⟨free, hlive⟩, -⟩ := State.closingEntry_spec (s := s) (k := k) (st := st) o
    rw [he, hlive] at h
    cases h
  · rw [he]
    split
    · exact hrecord i hn
    · exact hrecord i hn

/-- STREAM_CLOSING to each consumer, and STREAM_CLOSED to a present producer whose close on REQUEST completed. -/
theorem State.enterClosing_port (hst : s.stream k = some st) (q : Port) :
    (s.enterClosing k o).port q =
      if (s.enterClosing k o).stream k = none ∧ o = .request ∧ st.producerPresent = true ∧ q = st.producer then
        ((s.membersTold k st).port q).enqueue .streamClosed k none s.timebase
      else (s.membersTold k st).port q := by
  obtain ⟨⟨free, hlive⟩, hports, -, htime⟩ := State.closingEntry_spec (s := s) (k := k) (st := st) o
  rcases State.enterClosing_cases o hst with he | ⟨w, he, hw, -⟩
  · rw [he, if_neg (by simp [hlive]), hports]
  · have hnone : w.stream k = none := by
      rw [hw]
      exact State.setStream_stream_self _ _ _
    have hport : w.port q = (s.membersTold k st).port q := by
      rw [hw]
      exact hports q
    have hwtime : w.timebase = s.timebase := by
      rw [hw]
      exact htime
    rw [he]
    by_cases hsend : o = .request ∧ st.producerPresent = true
    · rw [if_pos hsend, State.notify_port, State.notify_stream, hnone, hport, hwtime]
      by_cases hq : q = st.producer
      · rw [if_pos hq, if_pos ⟨rfl, hsend.1, hsend.2, hq⟩]
      · rw [if_neg hq, if_neg fun h => hq h.2.2.2]
    · rw [if_neg hsend, if_neg fun h => hsend ⟨h.2.1, h.2.2.1⟩, hport]

theorem State.membersTold_port (hn : (st.consumers.map Consumer.port).Nodup) (q : Port) :
    (s.membersTold k st).port q =
      if ∃ c ∈ st.consumers, c.port = q then (s.port q).enqueue .streamClosing k none s.timebase else s.port q := by
  rw [State.membersTold, State.notifyEach_port_of_nodup hn]
  simp only [List.mem_map]
  rfl

/-! ## The records -/

/-- A READY frame of the list is FREE, or DRAINING with its holders. -/
theorem State.closingEntry_record_of_ready {a : Assignment} {m : FrameStamp} {owed : Option PortSet} {hold : PortSet}
    (hi : i ∈ st.ready) (hu : (s.record i).use = .frame a (.ready m owed hold)) :
    (s.closingEntry k o st).record i = { s.record i with
      use := if hold = PortSet.empty then .frame a .free else .frame a (.draining m hold) } := by
  have hretired : (s.framesRetired k st).record i = (s.record i).retired := by
    rw [State.framesRetired_record, if_pos hi]
  rw [State.closingEntry_record_of_frame o (by simp [BufferRecord.condition, hu]), State.writeEnded,
    State.endStreamWrite_record_of_noWriter k _ (hretired ▸ BufferRecord.writer_retired _), hretired,
    BufferRecord.retired_of_ready hu]

theorem State.framesRetired_record_of_writer {a : Assignment} {q : Port} (hu : (s.record i).use = .frame a (.writing q))
    (hready : ∀ j ∈ st.ready, (s.record j).writer = none) : (s.framesRetired k st).record i = s.record i := by
  rw [State.framesRetired_record, if_neg]
  intro hi
  have := hready i hi
  simp [BufferRecord.writer, hu] at this

theorem State.endLease_record (h : BitVec 16) (p : Port) (u : State) (j : RecordId) :
    (u.endLease h p).record j = u.record j := rfl

section
variable {a : Assignment} {q : Port} (hn : (s.record i).names k = true)
  (hu : (s.record i).use = .frame a (.writing q))
  (hother : ∀ j, j ≠ i → (s.record j).names k = true → (s.record j).writer = none)
  (hready : ∀ j ∈ st.ready, (s.record j).writer = none)
include hn hu hother hready

/-- The one write handle of the stream is the one that ends. -/
theorem State.writeEnded_of_writer :
    s.writeEnded k st = (s.framesRetired k st).endWriteHandle i q k := by
  have hsame := State.framesRetired_record_of_writer (k := k) (st := st) hu hready
  refine State.endStreamWrite_of_writer (State.writingOf_of_unique ?_ ?_ fun j hj hnj => ?_)
  · rw [hsame]
    exact hn
  · rw [hsame]
    simp [BufferRecord.writer, hu]
  · rw [BufferRecord.names_congr (State.framesRetired_record_reads j).2] at hnj
    rw [State.framesRetired_record]
    split
    · exact BufferRecord.writer_retired _
    · exact hother j hj hnj

theorem State.enterClosing_noLease (hst : s.stream k = some st) :
    (s.enterClosing k o).NoLease (formHandle .write i (s.record i).generation) q := by
  have hended : (s.writeEnded k st).NoLease (formHandle .write i (s.record i).generation) q := by
    rw [State.writeEnded_of_writer hn hu hother hready]
    refine (State.endWriting_winds _ k i).leases _ _ ?_
    rw [← State.framesRetired_record_of_writer (k := k) (st := st) hu hready]
    exact State.endLease_noLease _ _ _
  rw [State.enterClosing_eq o hst]
  exact ((((State.cancelFallbackFill_winds _ k).trans (State.modTracker_winds _ k _)).trans
    (State.modStream_winds _ k _)).trans (State.completionCheck_winds _ k)).leases _ _ hended

theorem State.closingEntry_record_of_noJob (hf : (s.record i).fill = .noJob) :
    (s.closingEntry k o st).record i = { s.record i with use := .frame a .free } := by
  have hsame := State.framesRetired_record_of_writer (k := k) (st := st) hu hready
  rw [State.closingEntry_record_of_frame o (by simp [BufferRecord.condition, hu]),
    State.writeEnded_of_writer hn hu hother hready, State.endWriteHandle, State.endWriting_of_noJob]
  · rw [State.becomeFree_record, if_pos rfl, State.endLease_record, hsame, BufferRecord.toFrame_of_frame hu]
  · rw [State.endLease_record, hsame, hf]

theorem State.closingEntry_record_of_named {tag : BitVec 8} (hf : (s.record i).fill = .named tag) :
    (s.closingEntry k o st).record i =
      if (s.engine.cancel tag).1 = .marked then
        { s.record i with fill := .cancelling tag, use := .frame a .settling }
      else { s.record i with fill := .noJob, use := .frame a .free } := by
  have hsame := State.framesRetired_record_of_writer (k := k) (st := st) hu hready
  have hfill : ∀ h, (((s.framesRetired k st).endLease h q).record i).fill = .named tag := fun h => by
    rw [State.endLease_record, hsame, hf]
  have hcancel : ∀ h, ((s.framesRetired k st).endLease h q).engine.cancel tag = s.engine.cancel tag := fun h => by
    rw [← State.framesRetired_engine (s := s) (k := k) (st := st)]
    rfl
  rw [State.closingEntry_record_of_frame o (by simp [BufferRecord.condition, hu]),
    State.writeEnded_of_writer hn hu hother hready, State.endWriteHandle]
  split
  · next hmarked =>
    rw [State.endWriting_of_marked (hfill _) ((hcancel _).trans (Prod.ext hmarked rfl)), State.modRecord,
      State.setRecord_record_self, State.setEngine_record, State.endLease_record, hsame,
      BufferRecord.toFrame_of_frame hu]
    rfl
  · next hmarked =>
    rw [State.endWriting_of_unmarked (hfill _) (hcancel _) hmarked, State.becomeFree_record, if_pos rfl,
      State.modRecord, State.setRecord_record_self, State.setEngine_record, State.endLease_record, hsame,
      BufferRecord.toFrame_of_frame (show ((s.record i).setFill .noJob).use = _ from hu)]
    rfl

end

theorem State.cancelFallbackFill_of_noJob {u : State} (hb : u.fallbackOf k = some i)
    (hf : (u.record i).fill = .noJob) : u.cancelFallbackFill k = u := by
  simp [State.cancelFallbackFill, hb, hf]

theorem State.cancelFallbackFill_of_named {u : State} {tag : BitVec 8} (hb : u.fallbackOf k = some i)
    (hf : (u.record i).fill = .named tag) :
    u.cancelFallbackFill k = (u.setEngine (u.engine.cancel tag).2).modRecord i
      (BufferRecord.setFill (if (u.engine.cancel tag).1 = .marked then .cancelling tag else .noJob)) := by
  rcases hc : u.engine.cancel tag with ⟨ans, e⟩
  cases ans <;> simp [State.cancelFallbackFill, hb, hf, hc]

/-- The fallback's fill is cancelled, its condition standing (R34). -/
theorem State.closingEntry_record_of_fallback (hb : s.fallbackOf k = some i) :
    ((s.record i).fill = .noJob → (s.closingEntry k o st).record i = s.record i) ∧
    (∀ tag, (s.record i).fill = .named tag → (s.closingEntry k o st).record i = { s.record i with
      fill := if (s.engine.cancel tag).1 = .marked then .cancelling tag else .noJob }) := by
  obtain ⟨hc, -⟩ := State.condition_of_fallbackOf hb
  have hretired : (s.framesRetired k st).record i = s.record i := by
    rw [State.framesRetired_record, BufferRecord.retired_of_fallback hc, ite_self]
  have hended : (s.writeEnded k st).record i = s.record i := by
    rw [State.writeEnded, State.endStreamWrite_record_of_noWriter k _
      (hretired ▸ BufferRecord.writer_of_fallback hc), hretired]
  have hfallback : (s.writeEnded k st).fallbackOf k = some i := by
    rw [State.fallbackOf_congr State.writeEnded_record_reads, hb]
  rw [State.closingEntry_record]
  refine ⟨fun hf => ?_, fun tag hf => ?_⟩
  · rw [State.cancelFallbackFill_of_noJob hfallback (by rw [hended, hf]), hended]
  · rw [State.cancelFallbackFill_of_named hfallback (by rw [hended, hf]), State.modRecord,
      State.setRecord_record_self, State.setEngine_record, hended, State.writeEnded_cancel_fst]
    rfl

theorem State.enterClosing_engine (hst : s.stream k = some st) (hw : s.NoWriter k) {tag : BitVec 8}
    (hb : s.fallbackOf k = some i) (hf : (s.record i).fill = .named tag) :
    (s.enterClosing k o).engine = (s.engine.cancel tag).2 := by
  obtain ⟨hc, -⟩ := State.condition_of_fallbackOf hb
  have hended : s.writeEnded k st = s.framesRetired k st :=
    State.endStreamWrite_of_noWriter (State.framesRetired_noWriter hw)
  have hfallback : (s.framesRetired k st).fallbackOf k = some i := by
    rw [State.fallbackOf_congr State.framesRetired_record_reads, hb]
  have hfill : ((s.framesRetired k st).record i).fill = .named tag := by
    rw [State.framesRetired_record, BufferRecord.retired_of_fallback hc, ite_self, hf]
  have hcancel := congrArg State.engine (State.cancelFallbackFill_of_named hfallback hfill)
  rw [← hended] at hcancel
  refine ((State.enterClosing_parts o hst).2.trans hcancel).trans ?_
  rw [hended, State.framesRetired_engine]
  rfl

end

/-- Settles O24: by the stages of the entry, and by whether the completion check at its end completes the close. -/
theorem entryIntoClosingTakesMembership : Obligations.EntryIntoClosingTakesMembership := by
  unfold Obligations.EntryIntoClosingTakesMembership
  rintro s _ k st o rfl hst
  have hwithin := State.enterClosing_within k o s
  refine ⟨fun st' h => ?context, State.enterClosing_tracker o hst, fun j hj => ⟨hwithin.streams j hj,
    hwithin.trackers j hj⟩, hwithin.generation, fun h i hn => State.enterClosing_unassigned o hst h hn,
    fun h i a m owed hold hi hu => ?ready, fun i a q hn hu hother hready => ⟨?lease, fun h => ?writer⟩,
    fun h i hb => ?fallback, fun hw i tag hb hf => State.enterClosing_engine o hst hw hb hf, fun hn q x hx => ?port⟩
  case context =>
    obtain ⟨free, rfl⟩ := State.enterClosing_stream o hst h
    exact ⟨rfl, rfl, rfl, rfl, rfl, rfl, rfl, rfl, rfl⟩
  case ready =>
    rw [State.enterClosing_of_live o hst h]
    exact State.closingEntry_record_of_ready o hi hu
  case lease => exact State.enterClosing_noLease o hn hu hother hready hst
  case writer =>
    rw [State.enterClosing_of_live o hst h]
    exact ⟨State.closingEntry_record_of_noJob o hn hu hother hready,
      fun tag hf => State.closingEntry_record_of_named o hn hu hother hready hf⟩
  case fallback =>
    rw [State.enterClosing_of_live o hst h]
    exact State.closingEntry_record_of_fallback o hb
  case port => rw [State.enterClosing_port o hst, State.membersTold_port hn, ← hx]

/-! ## CLOSE_STREAM (R32) -/

section
variable {s : State} {p : Port} {f : RequestFrame} {t : Time} {k : StreamId} {st : Stream}

theorem closeStreamRequest_eq (hs : s.InSession p f) (hid : f.field 0 1 = k.val) (hst : s.stream k = some st)
    (ho : st.phase = .preparing ∨ st.phase = .opened) :
    closeStreamRequest p f t s =
      if st.producer = p then (s.enterClosing k .request, .ok [(s.enterClosing k .request).streamCode k])
      else (s, .refuse .notProducer) := by
  simp [closeStreamRequest, checkSession_of_inSession hs, checkStream_of_live admitsJoin hid hst, admitsJoin, ho,
    answer_check]

theorem State.enterClosing_streamCode (o : CloseOrigin) (hst : s.stream k = some st) :
    (s.enterClosing k o).streamCode k = if (s.enterClosing k o).stream k = none then 0 else 4 := by
  cases h : (s.enterClosing k o).stream k with
  | none => simp [State.streamCode, h]
  | some st' =>
    obtain ⟨free, rfl⟩ := State.enterClosing_stream o hst h
    rw [State.streamCode_of_live h]
    rfl

end

/-- Settles O23: the role, and the code of the stream after the entry. -/
theorem closeStreamEntersClosing : Obligations.CloseStreamEntersClosing := by
  unfold Obligations.CloseStreamEntersClosing
  intro s p f t k st hx hs hk hid hst ho
  have hbody := closeStreamRequest_eq (t := t) hs hid hst ho
  refine ⟨fun hp => ?producer, fun hp => ?other⟩
  case producer =>
    rw [if_pos hp, State.enterClosing_streamCode _ hst] at hbody
    exact exec_of_body .closeStream hx hk hbody
  case other =>
    rw [if_neg hp] at hbody
    exact exec_of_body .closeStream hx hk hbody

end Sys2Proof.Machine
end

section
/-! PROOF. The departure of a consumer (R86–R89): its holds, what it is owed, its entry, and the orphan check. -/

namespace Sys2Proof.Machine

/-! ## The context through a departure -/

/-- Releasing the holds of a port changes its own entries, the free list and the waiting flag. -/
def Stream.Releases (p : Port) (st st' : Stream) : Prop :=
  st'.phase = st.phase ∧ st'.producerPresent = st.producerPresent ∧ st'.policy = st.policy ∧
    st'.ready = st.ready ∧ (st'.consumers.filter fun c => c.port ≠ p) = st.consumers.filter fun c => c.port ≠ p

/-- Behind the pending sets the ready list may have changed too. -/
def Stream.Departs (p : Port) (st st' : Stream) : Prop :=
  st'.phase = st.phase ∧ st'.producerPresent = st.producerPresent ∧ st'.policy = st.policy ∧
    (st'.consumers.filter fun c => c.port ≠ p) = st.consumers.filter fun c => c.port ≠ p

section
variable (p : Port)

theorem Stream.Releases.refl (st : Stream) : Stream.Releases p st st := ⟨rfl, rfl, rfl, rfl, rfl⟩

theorem Stream.Releases.trans (x y z : Stream) (h : Stream.Releases p x y) (h' : Stream.Releases p y z) :
    Stream.Releases p x z := by
  obtain ⟨h1, h2, h3, h4, h5⟩ := h
  obtain ⟨h1', h2', h3', h4', h5'⟩ := h'
  exact ⟨h1'.trans h1, h2'.trans h2, h3'.trans h3, h4'.trans h4, h5'.trans h5⟩

theorem Stream.Departs.refl (st : Stream) : Stream.Departs p st st := ⟨rfl, rfl, rfl, rfl⟩

theorem Stream.Departs.trans (x y z : Stream) (h : Stream.Departs p x y) (h' : Stream.Departs p y z) :
    Stream.Departs p x z := by
  obtain ⟨h1, h2, h3, h4⟩ := h
  obtain ⟨h1', h2', h3', h4'⟩ := h'
  exact ⟨h1'.trans h1, h2'.trans h2, h3'.trans h3, h4'.trans h4⟩

theorem Stream.Releases.departs {p : Port} (x y : Stream) (h : Stream.Releases p x y) : Stream.Departs p x y := by
  obtain ⟨h1, h2, h3, -, h4⟩ := h
  exact ⟨h1, h2, h3, h4⟩

theorem Stream.FreeOnly.releases (x y : Stream) (h : Stream.FreeOnly x y) : Stream.Releases p x y := by
  obtain ⟨free, waiting, rfl⟩ := h
  exact .refl p x

/-- The change of a port's own entries leaves those of the others. -/
theorem Stream.modConsumer_releases (f : Consumer → Consumer) (hf : ∀ c, (f c).port = c.port) (st : Stream) :
    Stream.Releases p st (st.modConsumer p f) := by
  refine ⟨rfl, rfl, rfl, rfl, ?_⟩
  simp only [Stream.modConsumer]
  induction st.consumers with
  | nil => rfl
  | cons c cs ih =>
    rw [List.map_cons]
    by_cases h : c.port = p
    · rw [if_pos h, List.filter_cons_of_neg (by simp [hf, h]), List.filter_cons_of_neg (by simp [h]), ih]
    · rw [if_neg h, List.filter_cons_of_pos (by simp [h]), List.filter_cons_of_pos (by simp [h]), ih]

end

/-- An update of a live context that frees nothing. -/
theorem State.modStream_frees {R : Stream → Stream → Prop} {k : StreamId} {s : State} {f : Stream → Stream}
    (hf : ∀ st, R st (f st) ∧ (f st).producer = st.producer ∧ (f st).producerWaiting = st.producerWaiting) :
    State.Frees R k s (s.modStream k f) := by
  refine ⟨rfl, rfl, fun st hst => ?_⟩
  obtain ⟨hR, hp, hw⟩ := hf st
  refine ⟨f st, none, ?_, hR, hp, fun h => ⟨rfl, hw.trans h⟩, fun h => absurd rfl h, fun q => ?_⟩
  · rw [State.modStream_of_live hst, State.setStream_stream_self]
  · split <;> rfl

section
variable (s : State) (p : Port) (k : StreamId) (i : RecordId)

theorem State.endHold_frees : State.Frees (Stream.Releases p) k s (s.endHold i p k) := by
  have hrecord : State.Frees (Stream.Releases p) k s (s.modRecord i (BufferRecord.mapHold fun x => x.drop p)) :=
    .of_same (.refl p) rfl rfl rfl rfl
  have hcount := hrecord.trans (.trans p) (State.modStream_frees (k := k)
    (f := Stream.modConsumer p fun c => { c with readHolds := c.readHolds - 1 })
    fun st => ⟨Stream.modConsumer_releases p (fun c => { c with readHolds := c.readHolds - 1 }) (fun _ => rfl) st,
      rfl, rfl⟩)
  simp only [State.endHold]
  split
  · exact hcount.trans (.trans p) ((State.becomeFree_frees i k _).mono (Stream.FreeOnly.releases p))
  · exact hcount

theorem State.releaseHold_frees : State.Frees (Stream.Releases p) k s (s.releaseHold i p k) := by
  have hlease : State.Frees (Stream.Releases p) k s (s.endLease (formHandle .read i (s.record i).generation) p) :=
    .of_same (.refl p) rfl rfl rfl rfl
  exact hlease.trans (.trans p) (State.endHold_frees _ p k i)

theorem State.releaseHolds_frees : State.Frees (Stream.Releases p) k s (s.releaseHolds p k) :=
  .foldl (.refl p) (.trans p) _ (fun s i => s.releaseHold_frees p k i) _ s

theorem State.dropOwed_frees : State.Frees (Stream.Departs p) k s (s.dropOwed p k i) := by
  have hrecord : State.Frees (Stream.Departs p) k s (s.modRecord i (BufferRecord.mapPending fun x => x.drop p)) :=
    .of_same (.refl p) rfl rfl rfl rfl
  unfold State.dropOwed
  split
  · exact .refl (.refl p)
  · simp only
    split
    · exact (hrecord.trans (.trans p) (State.modStream_frees (k := k)
        (f := fun st => { st with ready := st.ready.filter fun j => j ≠ i })
        fun st => ⟨.refl p st, rfl, rfl⟩)).trans (.trans p) ((State.retire_frees i k _).mono
          fun x y h => (Stream.FreeOnly.releases p x y h).departs)
    · exact hrecord

theorem State.dropAllOwed_frees : State.Frees (Stream.Departs p) k s (s.dropAllOwed p k) := by
  unfold State.dropAllOwed
  split
  · exact .refl (.refl p)
  · split
    · exact .foldl (.refl p) (.trans p) _ (fun s i => s.dropOwed_frees p k i) _ s
    · exact .refl (.refl p)

/-! ## Holds and leases (R87) -/

theorem State.releaseHold_heldBy : ((s.releaseHold i p k).record i).heldBy p = false := by
  have hdropped : (((s.endLease (formHandle .read i (s.record i).generation) p).modRecord i
      (BufferRecord.mapHold fun x => x.drop p)).record i).heldBy p = false := by
    rw [State.modRecord, State.setRecord_record_self, BufferRecord.heldBy_mapHold_drop]
    simp
  by_contra hstill
  rw [Bool.not_eq_false] at hstill
  simp only [State.releaseHold, State.endHold] at hstill
  split at hstill
  · have := (State.becomeFree_within i k _).held i p hstill
    rw [State.modStream, State.setStream_record, hdropped] at this
    cases this
  · rw [State.modStream, State.setStream_record, hdropped] at hstill
    cases hstill

theorem State.releaseHold_noLease : (s.releaseHold i p k).NoLease (formHandle .read i (s.record i).generation) p :=
  (State.endHold_winds _ k i p).leases _ _ (s.endLease_noLease _ _)

variable {i}

/-- Every record of a list of holds is released, with its lease, whatever comes before and behind it. -/
theorem State.foldl_releaseHold {l : List RecordId} (hi : i ∈ l) :
    ((l.foldl (fun s i => State.releaseHold i p k s) s).record i).heldBy p = false ∧
      (l.foldl (fun s i => State.releaseHold i p k s) s).NoLease (formHandle .read i (s.record i).generation) p := by
  obtain ⟨front, back, rfl⟩ := List.append_of_mem hi
  rw [List.foldl_append, List.foldl_cons]
  have hfront := State.Within.foldl (k := k) _ (fun u j => State.releaseHold_within j p k u) front s
  have hback := fun u => State.Within.foldl (k := k) _ (fun u j => State.releaseHold_within j p k u) back u
  have hleases := fun u => State.Winds.foldl _ (fun u j => State.releaseHold_winds u k j p) back u
  refine ⟨Bool.eq_false_iff.2 fun hstill => ?_, ?_⟩
  · have := (hback _).held i p hstill
    rw [State.releaseHold_heldBy] at this
    cases this
  · rw [← hfront.generation i]
    exact (hleases _).leases _ _ (State.releaseHold_noLease _ p k i)

theorem State.mem_heldIn : i ∈ s.heldIn p k ↔ (s.record i).names k = true ∧ (s.record i).heldBy p = true := by
  simp [State.heldIn, allRecords]

theorem State.releaseHolds_heldBy (hn : (s.record i).names k = true) :
    ((s.releaseHolds p k).record i).heldBy p = false := by
  by_cases hheld : (s.record i).heldBy p = true
  · exact (State.foldl_releaseHold s p k ((s.mem_heldIn p k).2 ⟨hn, hheld⟩)).1
  · exact Bool.eq_false_iff.2 fun h => hheld ((s.releaseHolds_within p k).held i p h)

/-! ## Pending sets (R88) -/

variable (i)

theorem State.dropOwed_owedTo : ((s.dropOwed p k i).record i).owedTo p = false := by
  have hdropped : ((s.modRecord i (BufferRecord.mapPending fun x => x.drop p)).record i).owedTo p = false := by
    rw [State.modRecord, State.setRecord_record_self, BufferRecord.owedTo_mapPending_drop]
    simp
  cases hp : (s.record i).pendingSet with
  | none => simp [State.dropOwed, hp, BufferRecord.owedTo]
  | some x =>
    by_contra hstill
    rw [Bool.not_eq_false] at hstill
    simp only [State.dropOwed, hp] at hstill
    split at hstill
    · have := (State.retire_within i k _).owed i p hstill
      rw [State.modStream, State.setStream_record, hdropped] at this
      cases this
    · rw [hdropped] at hstill
      cases hstill

variable {i}

theorem State.dropAllOwed_owedTo {st : Stream} (hst : s.stream k = some st) (hq : st.policy = .queue)
    (hi : i ∈ st.ready) : ((s.dropAllOwed p k).record i).owedTo p = false := by
  have hall : s.dropAllOwed p k = st.ready.foldl (fun s i => s.dropOwed p k i) s := by
    simp [State.dropAllOwed, hst, hq]
  obtain ⟨front, back, hsplit⟩ := List.append_of_mem hi
  rw [hall, hsplit, List.foldl_append, List.foldl_cons]
  refine Bool.eq_false_iff.2 fun hstill => ?_
  have := (State.Within.foldl (k := k) _ (fun u j => State.dropOwed_within p k j u) back _).owed i p hstill
  rw [State.dropOwed_owedTo] at this
  cases this

/-! ## The entry and the orphan check (R89) -/

section
variable {s p k} {st : Stream} (hst : s.stream k = some st)
include hst

theorem State.dropEntry_of_live :
    s.dropEntry p k =
      if st.producerPresent = true then
        (s.setStream k (some { st with consumers := st.consumers.filter fun c => c.port ≠ p })).notify st.producer
          .consumerLeft k (some (BitVec.ofNat 32 p.val))
      else s.setStream k (some { st with consumers := st.consumers.filter fun c => c.port ≠ p }) := by
  simp only [State.dropEntry, hst]
  rfl

theorem State.dropEntry_stream :
    (s.dropEntry p k).stream k = some { st with consumers := st.consumers.filter fun c => c.port ≠ p } := by
  rw [State.dropEntry_of_live hst]
  split
  · rw [State.notify_stream, State.setStream_stream_self]
  · rw [State.setStream_stream_self]

theorem State.dropEntry_port (q : Port) :
    (s.dropEntry p k).port q =
      if st.producerPresent = true ∧ q = st.producer then
        (s.port q).enqueue .consumerLeft k (some (BitVec.ofNat 32 p.val)) s.timebase
      else s.port q := by
  rw [State.dropEntry_of_live hst]
  by_cases hp : st.producerPresent = true
  · rw [if_pos hp, State.notify_port]
    by_cases hq : q = st.producer
    · rw [if_pos hq, if_pos ⟨hp, hq⟩]
      rfl
    · rw [if_neg hq, if_neg fun h => hq h.2]
      rfl
  · rw [if_neg hp, if_neg fun h => hp h.1]
    rfl

theorem State.orphanCheck_of_left (h : st.phase ≠ .orphaned ∨ st.consumers ≠ []) : s.orphanCheck k = s := by
  rcases h with h | h <;> simp [State.orphanCheck, hst, h]

theorem State.orphanCheck_of_empty (ho : st.phase = .orphaned) (hc : st.consumers = []) :
    s.orphanCheck k = s.enterClosing k .departure := by
  simp [State.orphanCheck, hst, ho, hc]

/-- A stream left without consumers is closed with nobody to tell. -/
theorem State.orphanCheck_port (q : Port) : (s.orphanCheck k).port q = s.port q := by
  by_cases h : st.phase = .orphaned ∧ st.consumers = []
  · rw [State.orphanCheck_of_empty hst h.1 h.2, State.enterClosing_port _ hst, if_neg (by simp),
      State.membersTold_port (by simp [h.2]), if_neg (by simp [h.2])]
  · rw [State.orphanCheck_of_left hst (by rwa [Ne, Ne, ← not_and_or])]

/-- What the orphan check leaves of a live context: itself, or one that is CLOSING without consumers. -/
theorem State.orphanCheck_stream {st' : Stream} (h : (s.orphanCheck k).stream k = some st') :
    st' = st ∨ (st.phase = .orphaned ∧ st.consumers = [] ∧ st'.consumers = []) := by
  by_cases he : st.phase = .orphaned ∧ st.consumers = []
  · rw [State.orphanCheck_of_empty hst he.1 he.2] at h
    obtain ⟨free, rfl⟩ := State.enterClosing_stream _ hst h
    exact .inr ⟨he.1, he.2, rfl⟩
  · rw [State.orphanCheck_of_left hst (by rwa [Ne, Ne, ← not_and_or]), hst] at h
    exact .inl (Option.some.inj h).symm

end

/-! ## The whole departure -/

theorem State.depart_frees :
    State.Frees (Stream.Departs p) k s ((s.releaseHolds p k).dropAllOwed p k) :=
  ((s.releaseHolds_frees p k).mono fun _ _ h => h.departs).trans (.trans p) (State.dropAllOwed_frees _ p k)

end

/-- A port after the notice of a freed buffer, as a fold over at most one index. -/
theorem AgentPort.tellFreed_eq (k : StreamId) (freed : Option RecordId) (now : Time) (q : AgentPort) :
    q.tellFreed k freed now =
      freed.toList.foldl (fun x i => x.enqueue .bufferAvailable k (some (BitVec.ofNat 32 i.val)) now) q := by
  cases freed <;> rfl

/-- Settles O22: part by part of the departure; what a part achieves, the parts behind it leave. -/
theorem departureRemovesTheConsumer : Obligations.DepartureRemovesTheConsumer := by
  unfold Obligations.DepartureRemovesTheConsumer
  rintro s _ p k st rfl hst -
  have hfrees := s.depart_frees p k
  obtain ⟨st1, freed, hst1, ⟨hphase, hpresent, -, hconsumers⟩, hproducer, hwait, -, hports⟩ :=
    hfrees.live st hst
  have hst2 := State.dropEntry_stream (p := p) hst1
  have hwithin := s.depart_within p k
  have hafterHolds : (s.releaseHolds p k).Within k (s.depart p k) :=
    ((State.dropAllOwed_within _ _ _).trans (State.dropEntry_within _ _ _)).trans (State.orphanCheck_within _ _)
  have hport (q : Port) : (s.depart p k).port q =
      if st.producerPresent = true ∧ q = st.producer then
        (((s.releaseHolds p k).dropAllOwed p k).port q).enqueue .consumerLeft k (some (BitVec.ofNat 32 p.val))
          s.timebase
      else ((s.releaseHolds p k).dropAllOwed p k).port q := by
    rw [State.depart, State.orphanCheck_port hst2, State.dropEntry_port hst1, hpresent, hproducer, hfrees.timebase]
  refine ⟨fun st' h => ?context, fun i hn => ?held, fun i hn hheld => ?lease, fun hq i hi => ?owed,
    fun j hj => ⟨hwithin.streams j hj, hwithin.trackers j hj⟩, fun q hq => ?others,
    freed.toList, ?atMostOne, fun hw => ?notWaiting, fun x hx => ?producer⟩
  case context =>
    rcases State.orphanCheck_stream hst2 h with rfl | ⟨ho, hempty, hgone⟩
    · exact ⟨fun c hc => by simpa using (List.mem_filter.1 hc).2, fun _ => ⟨hconsumers, hphase⟩⟩
    · refine ⟨by simp [hgone], fun hleft => ?_⟩
      have hnone : (st.consumers.filter fun c => c.port ≠ p) = [] := hconsumers.symm.trans hempty
      rcases hleft with ⟨c, hc, hcp⟩ | hnot
      · have hmem : c ∈ st.consumers.filter fun c => c.port ≠ p := List.mem_filter.2 ⟨hc, by simpa using hcp⟩
        rw [hnone] at hmem
        exact absurd hmem List.not_mem_nil
      · exact absurd (hphase.symm.trans ho) hnot
  case held =>
    refine Bool.eq_false_iff.2 fun hstill => ?_
    have := hafterHolds.held i p hstill
    rw [State.releaseHolds_heldBy s p k hn] at this
    cases this
  case lease =>
    have hnone := (State.foldl_releaseHold s p k ((s.mem_heldIn p k).2 ⟨hn, hheld⟩)).2
    exact (((State.dropAllOwed_winds _ k p).trans (State.dropEntry_winds _ k p)).trans
      (State.orphanCheck_winds _ k)).leases _ _ hnone
  case owed =>
    obtain ⟨st0, -, hst0, ⟨-, -, hpolicy, hready, -⟩, -⟩ := (s.releaseHolds_frees p k).live st hst
    refine Bool.eq_false_iff.2 fun hstill => ?_
    have := ((State.dropEntry_within p k _).trans (State.orphanCheck_within k _)).owed i p hstill
    rw [State.dropAllOwed_owedTo _ p k hst0 (hpolicy.trans hq) (hready ▸ hi)] at this
    cases this
  case others => rw [hport, if_neg fun h => hq h.2, hports, if_neg hq]
  case atMostOne => cases freed <;> simp
  case notWaiting =>
    obtain ⟨rfl, -⟩ := hwait hw
    rfl
  case producer =>
    rw [hport, hports, if_pos rfl, AgentPort.tellFreed_eq, ← hx]
    by_cases hp : st.producerPresent = true
    · rw [if_pos ⟨hp, rfl⟩, if_pos hp]
    · rw [if_neg fun h => hp h.1, if_neg hp]

end Sys2Proof.Machine
end

section
/-! PROOF. The detach actions (R176): what one stream's part does, and what the parts of the others leave of it. -/

namespace Sys2Proof.Machine

/-! ## What every part of the detach actions keeps -/

/-- What holds of every part, whichever its stream: rights, members and assignments are only taken away, and ports
are only told. -/
structure State.Unwinds (s u : State) : Prop where
  winds : s.Winds u
  generation : ∀ i, (u.record i).generation = (s.record i).generation
  assignment : ∀ i, (u.record i).assignment = (s.record i).assignment ∨ (u.record i).assignment = none
  held : ∀ i p, (u.record i).heldBy p = true → (s.record i).heldBy p = true
  members : ∀ k st', u.stream k = some st' → ∃ st, s.stream k = some st ∧ st'.producer = st.producer ∧
    (st'.producerPresent = true → st.producerPresent = true) ∧
    ∀ c' ∈ st'.consumers, ∃ c ∈ st.consumers, c.port = c'.port

section
variable {s t u : State}

theorem State.Unwinds.refl (s : State) : s.Unwinds s :=
  ⟨.refl s, fun _ => rfl, fun _ => .inl rfl, fun _ _ => id, fun _ st h => ⟨st, h, rfl, id, fun c hc => ⟨c, hc, rfl⟩⟩⟩

theorem State.Unwinds.of_within {k : StreamId} (h : s.Within k u) (hw : s.Winds u) : s.Unwinds u where
  winds := hw
  generation := h.generation
  assignment := h.assignment
  held := h.held
  members j st' hst' := by
    by_cases hj : j = k
    · subst hj
      exact h.members st' hst'
    · exact (State.Unwinds.refl s).members j st' ((h.streams j hj).symm.trans hst')

theorem State.Unwinds.trans (h : s.Unwinds t) (h' : t.Unwinds u) : s.Unwinds u where
  winds := h.winds.trans h'.winds
  generation i := (h'.generation i).trans (h.generation i)
  assignment i := by
    rcases h'.assignment i with h2 | h2
    · rw [h2]
      exact h.assignment i
    · exact .inr h2
  held i p := h.held i p ∘ h'.held i p
  members k st'' hs'' := by
    obtain ⟨st', hs', hp', hx', hc'⟩ := h'.members k st'' hs''
    obtain ⟨st, hs, hp, hx, hc⟩ := h.members k st' hs'
    refine ⟨st, hs, hp'.trans hp, hx ∘ hx', fun c'' hm => ?_⟩
    obtain ⟨c', hm', he'⟩ := hc' c'' hm
    obtain ⟨c, hm, he⟩ := hc c' hm'
    exact ⟨c, hm, he.trans he'⟩

/-- An UNASSIGNED record has neither a writer nor holders. -/
theorem BufferRecord.idle_of_unassigned {r : BufferRecord} (h : r.assignment = none) :
    r.writer = none ∧ ∀ p, r.heldBy p = false := by
  rcases r with ⟨g, fl, _ | ⟨a, fs⟩ | ⟨a, hold, c⟩⟩
  · exact ⟨rfl, fun _ => rfl⟩
  · cases h
  · cases h

/-- A record of a stream stays one, or is UNASSIGNED. -/
theorem State.Unwinds.names (h : s.Unwinds u) {i : RecordId} {k : StreamId} (hn : (s.record i).names k = true) :
    (u.record i).names k = true ∨ (u.record i).assignment = none :=
  (h.assignment i).imp_left fun ha => (BufferRecord.names_congr ha k).trans hn

theorem State.Unwinds.writer_none (h : s.Unwinds u) {i : RecordId} (hw : (s.record i).writer = none) :
    (u.record i).writer = none := by
  cases hu : (u.record i).writer with
  | none => rfl
  | some q =>
    rw [h.winds.writer i q hu] at hw
    cases hw

theorem State.Unwinds.not_held (h : s.Unwinds u) {i : RecordId} {p : Port} (hw : (s.record i).heldBy p = false) :
    (u.record i).heldBy p = false := by
  refine Bool.eq_false_iff.2 fun hu => ?_
  rw [h.held i p hu] at hw
  cases hw

theorem State.Unwinds.noConsumer (h : s.Unwinds u) {p : Port} {k : StreamId}
    (hs : ∀ st, s.stream k = some st → ∀ c ∈ st.consumers, c.port ≠ p) {st' : Stream} (hu : u.stream k = some st') :
    ∀ c ∈ st'.consumers, c.port ≠ p := by
  intro c' hc' hp
  obtain ⟨st, hst, -, -, hmembers⟩ := h.members k st' hu
  obtain ⟨c, hc, he⟩ := hmembers c' hc'
  exact hs st hst c hc (he.trans hp)

end

/-! ## One part for each stream -/

/-- A part of the detach actions for one stream: it keeps to that stream and takes rights away only. -/
structure State.Part (f : State → StreamId → State) : Prop where
  within : ∀ s k, State.Within k s (f s k)
  winds : ∀ s k, State.Winds s (f s k)

section
variable {f : State → StreamId → State} (hf : State.Part f)
include hf

theorem State.Part.unwinds (s : State) (k : StreamId) : s.Unwinds (f s k) := .of_within (hf.within s k) (hf.winds s k)

theorem State.Part.foldl_unwinds (ks : List StreamId) (s : State) : s.Unwinds (ks.foldl f s) := by
  induction ks generalizing s with
  | nil => exact .refl s
  | cons k ks ih => exact (hf.unwinds s k).trans (ih _)

theorem State.Part.foldl_apart {k : StreamId} {ks : List StreamId} (hk : k ∉ ks) (s : State) :
    (ks.foldl f s).stream k = s.stream k ∧ (ks.foldl f s).tracker k = s.tracker k := by
  induction ks generalizing s with
  | nil => exact ⟨rfl, rfl⟩
  | cons j ks ih =>
    rw [List.mem_cons, not_or] at hk
    obtain ⟨hstream, htracker⟩ := ih hk.2 (f s j)
    exact ⟨hstream.trans ((hf.within s j).streams k hk.1), htracker.trans ((hf.within s j).trackers k hk.1)⟩

/-- The parts of all streams, seen from one: its own part runs on a state in which it stands as before, and its
context and tracker stand behind it. -/
theorem State.Part.at_stream (k : StreamId) (s : State) : ∃ t, s.Unwinds t ∧ t.stream k = s.stream k ∧
    t.tracker k = s.tracker k ∧ (f t k).Unwinds (allStreams.foldl f s) ∧
    (allStreams.foldl f s).stream k = (f t k).stream k ∧ (allStreams.foldl f s).tracker k = (f t k).tracker k := by
  obtain ⟨front, back, hsplit⟩ := List.append_of_mem (List.mem_finRange k)
  have hnodup : (front ++ k :: back).Nodup := hsplit ▸ List.nodup_finRange 16
  have hfront : k ∉ front := fun h => List.disjoint_of_nodup_append hnodup h List.mem_cons_self
  have hback : k ∉ back := (List.nodup_cons.1 hnodup.of_append_right).1
  obtain ⟨hstream, htracker⟩ := hf.foldl_apart hfront s
  obtain ⟨hstream', htracker'⟩ := hf.foldl_apart hback (f (front.foldl f s) k)
  rw [allStreams, hsplit, List.foldl_append, List.foldl_cons]
  exact ⟨_, hf.foldl_unwinds front s, hstream, htracker, hf.foldl_unwinds back _, hstream', htracker'⟩

/-- A part that does nothing to a stream as it stands leaves it so. -/
theorem State.Part.at_idle {k : StreamId} {s : State} (h : ∀ t : State, t.stream k = s.stream k → f t k = t) :
    (allStreams.foldl f s).stream k = s.stream k ∧ (allStreams.foldl f s).tracker k = s.tracker k := by
  obtain ⟨t, -, hstream, htracker, -, hstream', htracker'⟩ := hf.at_stream k s
  rw [hstream', htracker', h t hstream]
  exact ⟨hstream, htracker⟩

/-- What each stream's part tells a port because of the stream's context, all of them together tell it. -/
theorem State.Part.foldl_told
    {due : Option Stream → StreamId → Port → NoticeKind × StreamId × Option (BitVec 32) → Prop}
    (hdue : ∀ s k q, ∃ sent, (∀ n ∈ sent, n.1 ∈ windKinds) ∧ (∀ n, due (State.stream s k) k q n → n ∈ sent) ∧
      (f s k).port q = (s.port q).told s.timebase sent)
    {ks : List StreamId} (hks : ks.Nodup) (s : State) (q : Port) :
    ∃ sent, (∀ n ∈ sent, n.1 ∈ windKinds) ∧ (∀ k ∈ ks, ∀ n, due (s.stream k) k q n → n ∈ sent) ∧
      (ks.foldl f s).port q = (s.port q).told s.timebase sent := by
  induction ks generalizing s with
  | nil => exact ⟨[], by simp, by simp, rfl⟩
  | cons k ks ih =>
    obtain ⟨hk, hks⟩ := List.nodup_cons.1 hks
    obtain ⟨first, hkinds, hfirst, hport⟩ := hdue s k q
    obtain ⟨rest, hkinds', hrest, hport'⟩ := ih hks (f s k)
    refine ⟨first ++ rest, fun n hn => (List.mem_append.1 hn).elim (hkinds n) (hkinds' n), fun j hj n hn => ?_, ?_⟩
    · rcases List.mem_cons.1 hj with rfl | hj
      · exact List.mem_append_left _ (hfirst n hn)
      · have hjk : j ≠ k := fun h => hk (h ▸ hj)
        exact List.mem_append_right _ (hrest j hj n ((hf.within s k).streams j hjk ▸ hn))
    · rw [List.foldl_cons, hport', hport, (hf.winds s k).timebase, AgentPort.told_append]

end

section
variable (p : Port)

theorem State.departIfMember_part : State.Part fun s k => s.departIfMember p k :=
  ⟨fun s k => s.departIfMember_within p k, fun s k => s.departIfMember_winds k p⟩

theorem State.releaseInClosing_part : State.Part fun s k => s.releaseInClosing p k :=
  ⟨fun s k => s.releaseInClosing_within p k, fun s k => s.releaseInClosing_winds k p⟩

theorem State.dropProducer_part : State.Part fun s k => s.dropProducer p k :=
  ⟨fun s k => s.dropProducer_within p k, fun s k => s.dropProducer_winds k p⟩

end

/-! ## Step 1: departures -/

section
variable {s : State} {p : Port} {k : StreamId} {st : Stream} (hst : s.stream k = some st)
include hst

theorem State.departIfMember_of_member (h : ∃ c ∈ st.consumers, c.port = p) : s.departIfMember p k = s.depart p k := by
  simp [State.departIfMember, hst, (st.hasConsumer_iff p).2 h]

theorem State.departIfMember_of_notMember (h : ∀ c ∈ st.consumers, c.port ≠ p) : s.departIfMember p k = s := by
  simp [State.departIfMember, hst, Stream.hasConsumer_eq_false_iff.2 h]

/-- The notice to a present producer is the last of a departure but for those of the orphan check. -/
theorem State.depart_told (q : Port) : ∃ sent, (∀ n ∈ sent, n.1 ∈ windKinds) ∧
    (st.producer = q → st.producerPresent = true → (.consumerLeft, k, some (BitVec.ofNat 32 p.val)) ∈ sent) ∧
    (s.depart p k).port q = (s.port q).told s.timebase sent := by
  obtain ⟨st1, freed, hst1, ⟨-, hpresent, -, -⟩, hproducer, -⟩ := (s.depart_frees p k).live st hst
  have hbefore := (s.releaseHolds_winds k p).trans (State.dropAllOwed_winds _ k p)
  obtain ⟨sent, hkinds, hport⟩ := hbefore.told q
  have hafter : (s.depart p k).port q = (((s.releaseHolds p k).dropAllOwed p k).dropEntry p k).port q :=
    State.orphanCheck_port (State.dropEntry_stream hst1) q
  rw [State.dropEntry_port hst1, hpresent, hproducer, hport, hbefore.timebase] at hafter
  by_cases hq : st.producerPresent = true ∧ q = st.producer
  · rw [if_pos hq] at hafter
    refine ⟨sent ++ [(.consumerLeft, k, some (BitVec.ofNat 32 p.val))], fun n hn => ?_, by simp, ?_⟩
    · rcases List.mem_append.1 hn with hn | hn
      · exact hkinds n hn
      · rw [List.mem_singleton.1 hn]
        simp [windKinds]
    · rw [hafter, AgentPort.told_append]
      rfl
  · rw [if_neg hq] at hafter
    exact ⟨sent, hkinds, fun h1 h2 => absurd ⟨h2, h1.symm⟩ hq, hafter⟩

end

theorem State.departIfMember_noConsumer (s : State) (p : Port) (k : StreamId) {st' : Stream}
    (h : (s.departIfMember p k).stream k = some st') : ∀ c ∈ st'.consumers, c.port ≠ p := by
  cases hst : s.stream k with
  | none => simp [State.departIfMember, hst] at h
  | some st =>
    by_cases hm : ∃ c ∈ st.consumers, c.port = p
    · rw [State.departIfMember_of_member hst hm] at h
      obtain ⟨st1, -, hst1, -⟩ := (s.depart_frees p k).live st hst
      rcases State.orphanCheck_stream (State.dropEntry_stream (p := p) hst1) h with rfl | ⟨-, -, hgone⟩
      · exact fun c hc => by simpa using (List.mem_filter.1 hc).2
      · simp [hgone]
    · have hno : ∀ c ∈ st.consumers, c.port ≠ p := fun c hc hp => hm ⟨c, hc, hp⟩
      rw [State.departIfMember_of_notMember hst hno, hst] at h
      cases h
      exact hno

theorem State.depart_heldBy (s : State) (p : Port) (k : StreamId) {i : RecordId} (hn : (s.record i).names k = true) :
    ((s.depart p k).record i).heldBy p = false := by
  have hafter : (s.releaseHolds p k).Within k (s.depart p k) :=
    ((State.dropAllOwed_within _ _ _).trans (State.dropEntry_within _ _ _)).trans (State.orphanCheck_within _ _)
  refine Bool.eq_false_iff.2 fun hstill => ?_
  have := hafter.held i p hstill
  rw [State.releaseHolds_heldBy s p k hn] at this
  cases this

/-! ## Step 2: the holds in CLOSING streams -/

section
variable {s : State} {p : Port} {k : StreamId} {st : Stream} (hst : s.stream k = some st)
include hst

theorem State.releaseInClosing_of_notClosing (h : ∀ o, st.phase ≠ .closing o) : s.releaseInClosing p k = s := by
  cases hphase : st.phase with
  | closing o => exact absurd hphase (h o)
  | _ => simp [State.releaseInClosing, hst, hphase]

theorem State.releaseInClosing_heldBy {o : CloseOrigin} (hphase : st.phase = .closing o) {i : RecordId}
    (hn : (s.record i).names k = true) : ((s.releaseInClosing p k).record i).heldBy p = false := by
  by_cases hempty : s.heldIn p k = []
  · have hsame : s.releaseInClosing p k = s := by simp [State.releaseInClosing, hst, hphase, hempty]
    rw [hsame]
    refine Bool.eq_false_iff.2 fun hheld => ?_
    have := (s.mem_heldIn p k).2 ⟨hn, hheld⟩
    rw [hempty] at this
    cases this
  · have hrun : s.releaseInClosing p k = (s.releaseHolds p k).completionCheck k := by
      simp [State.releaseInClosing, hst, hphase, hempty]
    rw [hrun]
    refine Bool.eq_false_iff.2 fun hstill => ?_
    have := (State.completionCheck_within k _).held i p hstill
    rw [State.releaseHolds_heldBy s p k hn] at this
    cases this

end

/-! ## Step 3: the departure of a producer -/

/-- The write handle ended and the producer gone: what the departure of a producer begins with (R38). -/
def State.producerLeft (k : StreamId) (s : State) : State :=
  (s.endStreamWrite k).modStream k fun st => { st with producerPresent := false }

section
variable {s : State} {p : Port} {k : StreamId} {st : Stream}

theorem State.producerLeft_unwinds (s : State) (k : StreamId) : s.Unwinds (s.producerLeft k) :=
  .of_within ((s.endStreamWrite_within k).trans (State.absentProducer_within k _))
    ((s.endStreamWrite_winds k).trans (State.modStream_winds _ k _))

theorem State.producerLeft_tracker (s : State) (k j : StreamId) : (s.producerLeft k).tracker j = s.tracker j :=
  congrArg (fun t : Vector Tracker 16 => t[j]) (s.endStreamWrite_frees k).trackers

/-- Notices leave the trackers. -/
theorem State.notifyEach_tracker (ps : List Port) (kind : NoticeKind) (j : StreamId) (detail : Option (BitVec 32))
    (s : State) (k : StreamId) : (s.notifyEach ps kind j detail).tracker k = s.tracker k := by
  rw [State.notifyEach_eq]
  rfl

/-- The end of a write handle leaves the record without a writer. -/
theorem State.endWriting_writer (s : State) (i : RecordId) (k : StreamId) :
    ((s.endWriting i k).record i).writer = none := by
  have hfree : ∀ r : BufferRecord, (r.toFrame .free).writer = none := by
    rintro ⟨g, fl, _ | ⟨a, fs⟩ | ⟨a, hold, c⟩⟩ <;> rfl
  have hsettling : ∀ (r : BufferRecord) (fill : FillRef), ((r.toFrame .settling).setFill fill).writer = none := by
    rintro ⟨g, fl, _ | ⟨a, fs⟩ | ⟨a, hold, c⟩⟩ fill <;> rfl
  rcases s.endWriting_cases i k with h | ⟨tag, -, h⟩ <;> rw [h]
  · rw [State.becomeFree_record, if_pos rfl, hfree]
  · split
    · rw [State.modRecord, State.setRecord_record_self, hsettling]
    · rw [State.becomeFree_record, if_pos rfl, hfree]

/-- The one writer of a stream loses its write handle. -/
theorem State.producerLeft_writer {i : RecordId} (hn : (s.record i).names k = true)
    (hother : ∀ j, j ≠ i → (s.record j).names k = true → (s.record j).writer = none) :
    ((s.producerLeft k).record i).writer = none := by
  cases hw : (s.record i).writer with
  | none => exact (s.producerLeft_unwinds k).writer_none hw
  | some q =>
    have hend := State.endStreamWrite_of_writer (State.writingOf_of_unique hn hw hother)
    rw [State.producerLeft, State.modStream, State.setStream_record, hend]
    exact State.endWriting_writer _ i k

variable (hst : s.stream k = some st)
include hst

theorem State.producerLeft_stream : ∃ free waiting, (s.producerLeft k).stream k =
    some { st with producerPresent := false, free := free, producerWaiting := waiting } := by
  obtain ⟨st', -, hst', ⟨free, waiting, rfl⟩, -⟩ := (s.endStreamWrite_frees k).live st hst
  exact ⟨free, waiting, by rw [State.producerLeft, State.modStream_of_live hst', State.setStream_stream_self]⟩

/-- An OPEN stream orphaned: ORPHANED and nobody waits; the tracker is STALLED; each consumer is told (R39). -/
theorem State.orphan_stream :
    (s.orphan k).stream k = some { st with phase := .orphaned, producerWaiting := false } := by
  simp only [State.orphan, hst]
  rw [State.notifyEach_stream, State.modTracker, State.setTracker_stream, State.setStream_stream_self]

theorem State.orphan_tracker : (s.orphan k).tracker k = (s.tracker k).orphan := by
  simp only [State.orphan, hst]
  rw [State.notifyEach_tracker, State.modTracker, State.setTracker_tracker_self, State.setStream_tracker]

theorem State.orphan_port (q : Port) : (s.orphan k).port q =
    (s.port q).told s.timebase (List.replicate ((st.consumers.map Consumer.port).count q) (.producerGone, k, none)) := by
  simp only [State.orphan, hst]
  rw [State.notifyEach_port]
  rfl

theorem State.dropProducer_of_other (h : ¬(st.producer = p ∧ st.producerPresent = true)) : s.dropProducer p k = s := by
  simp [State.dropProducer, hst, h]

variable (hp : st.producer = p) (hx : st.producerPresent = true)
include hp hx

theorem State.dropProducer_of_orphaned (ho : st.phase = .opened) (hc : st.consumers ≠ []) :
    s.dropProducer p k = (s.producerLeft k).orphan k := by
  simp [State.dropProducer, hst, hp, hx, ho, hc, State.producerLeft]

theorem State.dropProducer_of_closed (h : st.phase = .preparing ∨ (st.phase = .opened ∧ st.consumers = [])) :
    s.dropProducer p k = (s.producerLeft k).enterClosing k .departure := by
  rcases h with h | ⟨h, hc⟩
  · simp [State.dropProducer, hst, hp, hx, h, State.producerLeft]
  · simp [State.dropProducer, hst, hp, hx, h, hc, State.producerLeft]

theorem State.dropProducer_of_ending (h : st.phase = .orphaned ∨ ∃ o, st.phase = .closing o) :
    s.dropProducer p k = s.producerLeft k := by
  rcases h with h | ⟨o, h⟩ <;> simp [State.dropProducer, hst, hp, hx, h, State.producerLeft]

/-- Whatever the stream's phase, more rights may go after the departure of its producer begins. -/
theorem State.dropProducer_after : (s.producerLeft k).Unwinds (s.dropProducer p k) := by
  by_cases hopen : st.phase = .opened ∧ st.consumers ≠ []
  · rw [State.dropProducer_of_orphaned hst hp hx hopen.1 hopen.2]
    exact .of_within (State.orphan_within k _) (State.orphan_winds _ k)
  · cases hphase : st.phase with
    | preparing =>
      rw [State.dropProducer_of_closed hst hp hx (.inl hphase)]
      exact .of_within (State.enterClosing_within k _ _) (State.enterClosing_winds _ k _)
    | opened =>
      rw [State.dropProducer_of_closed hst hp hx (.inr ⟨hphase, by simpa [hphase] using hopen⟩)]
      exact .of_within (State.enterClosing_within k _ _) (State.enterClosing_winds _ k _)
    | orphaned =>
      rw [State.dropProducer_of_ending hst hp hx (.inl hphase)]
      exact .refl _
    | closing o =>
      rw [State.dropProducer_of_ending hst hp hx (.inr ⟨o, hphase⟩)]
      exact .refl _

end

theorem State.dropProducer_absent (s : State) (p : Port) (k : StreamId) {st' : Stream}
    (h : (s.dropProducer p k).stream k = some st') : ¬(st'.producer = p ∧ st'.producerPresent = true) := by
  rintro ⟨hp, hx⟩
  obtain ⟨st, hst, hproducer, hpresent, -⟩ := (s.dropProducer_within p k).members st' h
  have hx' := hpresent hx
  have hp' : st.producer = p := hproducer.symm.trans hp
  obtain ⟨free, waiting, hleft⟩ := State.producerLeft_stream hst
  obtain ⟨st1, hst1, -, hpresent1, -⟩ := (State.dropProducer_after hst hp' hx').members k st' h
  rw [hleft] at hst1
  cases hst1
  cases hpresent1 hx

end Sys2Proof.Machine
end

section
/-! PROOF. The detach actions as a whole (R176): the three steps over all streams, then the expired-handle list. -/

namespace Sys2Proof.Machine

/-! ## The steps -/

/-- Step 1: the port has departed from every stream. -/
def State.departed (p : Port) (s : State) : State := allStreams.foldl (fun s k => s.departIfMember p k) s

/-- Step 2: its holds in CLOSING streams are released. -/
def State.holdsEnded (p : Port) (s : State) : State := allStreams.foldl (fun s k => s.releaseInClosing p k) s

/-- Step 3: it produces no stream any more. -/
def State.producersLeft (p : Port) (s : State) : State := allStreams.foldl (fun s k => s.dropProducer p k) s

section
variable (s : State) (p : Port)

/-- The steps up to the last, which only empties the port's expired-handle list. -/
def State.unwound : State := ((s.departed p).holdsEnded p).producersLeft p

theorem State.detachActions_eq : s.detachActions p = (s.unwound p).clearExpired p := rfl

theorem State.clearExpired_reads :
    (∀ k, (s.clearExpired p).stream k = s.stream k) ∧ (∀ k, (s.clearExpired p).tracker k = s.tracker k) ∧
      ∀ i, (s.clearExpired p).record i = s.record i :=
  ⟨fun _ => rfl, fun _ => rfl, fun _ => rfl⟩

/-- What the detach actions leave of contexts, trackers and records is what the three steps leave. -/
theorem State.detachActions_reads :
    (∀ k, (s.detachActions p).stream k = (s.unwound p).stream k) ∧
      (∀ k, (s.detachActions p).tracker k = (s.unwound p).tracker k) ∧
      ∀ i, (s.detachActions p).record i = (s.unwound p).record i := by
  rw [State.detachActions_eq]
  exact (s.unwound p).clearExpired_reads p

theorem State.departed_unwinds : s.Unwinds (s.departed p) := (State.departIfMember_part p).foldl_unwinds _ s

theorem State.holdsEnded_unwinds : s.Unwinds (s.holdsEnded p) := (State.releaseInClosing_part p).foldl_unwinds _ s

theorem State.producersLeft_unwinds : s.Unwinds (s.producersLeft p) := (State.dropProducer_part p).foldl_unwinds _ s

theorem State.unwound_unwinds : s.Unwinds (s.unwound p) :=
  ((s.departed_unwinds p).trans (State.holdsEnded_unwinds _ p)).trans (State.producersLeft_unwinds _ p)

/-! ## Membership -/

theorem State.unwound_noConsumer {k : StreamId} {st' : Stream} (h : (s.unwound p).stream k = some st') :
    ∀ c ∈ st'.consumers, c.port ≠ p := by
  obtain ⟨t, -, -, -, hafter, -⟩ := (State.departIfMember_part p).at_stream k s
  exact ((hafter.trans (State.holdsEnded_unwinds _ p)).trans (State.producersLeft_unwinds _ p)).noConsumer
    (fun st hst => t.departIfMember_noConsumer p k hst) h

theorem State.unwound_absent {k : StreamId} {st' : Stream} (h : (s.unwound p).stream k = some st') :
    ¬(st'.producer = p ∧ st'.producerPresent = true) := by
  obtain ⟨t, -, -, -, -, hstream, -⟩ := (State.dropProducer_part p).at_stream k ((s.departed p).holdsEnded p)
  exact t.dropProducer_absent p k (hstream.symm.trans h)

/-! ## Holds -/

section
variable {s} {k : StreamId} {st : Stream} (hst : s.stream k = some st)
include hst

/-- A stream the port does not consume stands through step 1. -/
theorem State.departed_of_notMember (h : ∀ c ∈ st.consumers, c.port ≠ p) :
    (s.departed p).stream k = some st ∧ (s.departed p).tracker k = s.tracker k := by
  rw [← hst]
  exact (State.departIfMember_part p).at_idle fun t ht => State.departIfMember_of_notMember (ht.trans hst) h

/-- A stream that is not CLOSING stands through step 2. -/
theorem State.holdsEnded_of_notClosing (h : ∀ o, st.phase ≠ .closing o) :
    (s.holdsEnded p).stream k = some st ∧ (s.holdsEnded p).tracker k = s.tracker k := by
  rw [← hst]
  exact (State.releaseInClosing_part p).at_idle fun t ht => State.releaseInClosing_of_notClosing (ht.trans hst) h

/-- Step 1 ends the holds in a stream the port consumes. -/
theorem State.departed_heldBy (h : ∃ c ∈ st.consumers, c.port = p) {i : RecordId}
    (hn : (s.record i).names k = true) : ((s.departed p).record i).heldBy p = false := by
  obtain ⟨t, hbefore, hstream, -, hafter, -⟩ := (State.departIfMember_part p).at_stream k s
  refine hafter.not_held ?_
  rcases hbefore.names hn with hn' | hnone
  · rw [State.departIfMember_of_member (hstream.trans hst) h]
    exact t.depart_heldBy p k hn'
  · exact ((State.departIfMember_part p).unwinds t k).not_held ((BufferRecord.idle_of_unassigned hnone).2 p)

/-- Step 2 ends the holds in a CLOSING stream. -/
theorem State.holdsEnded_heldBy {o : CloseOrigin} (h : st.phase = .closing o) {i : RecordId}
    (hn : (s.record i).names k = true) : ((s.holdsEnded p).record i).heldBy p = false := by
  obtain ⟨t, hbefore, hstream, -, hafter, -⟩ := (State.releaseInClosing_part p).at_stream k s
  refine hafter.not_held ?_
  rcases hbefore.names hn with hn' | hnone
  · exact State.releaseInClosing_heldBy (hstream.trans hst) h hn'
  · exact ((State.releaseInClosing_part p).unwinds t k).not_held ((BufferRecord.idle_of_unassigned hnone).2 p)

/-- Both ways a run leaves the port a hold are gone. -/
theorem State.unwound_heldBy (h : (∃ c ∈ st.consumers, c.port = p) ∨ ∃ o, st.phase = .closing o) {i : RecordId}
    (hn : (s.record i).names k = true) : ((s.unwound p).record i).heldBy p = false := by
  refine (State.producersLeft_unwinds _ p).not_held ?_
  by_cases hm : ∃ c ∈ st.consumers, c.port = p
  · exact (State.holdsEnded_unwinds _ p).not_held (State.departed_heldBy p hst hm hn)
  · obtain ⟨o, ho⟩ := h.resolve_left hm
    have hst' := (State.departed_of_notMember p hst fun c hc hp => hm ⟨c, hc, hp⟩).1
    rcases (s.departed_unwinds p).names hn with hn' | hnone
    · exact State.holdsEnded_heldBy p hst' ho hn'
    · exact (State.holdsEnded_unwinds _ p).not_held ((BufferRecord.idle_of_unassigned hnone).2 p)

/-! ## Streams produced -/

/-- A stream the port produces, does not consume and nobody closed reaches step 3 as it stands. -/
theorem State.unwound_at (hc : ∀ c ∈ st.consumers, c.port ≠ p) (hopen : ∀ o, st.phase ≠ .closing o) :
    ∃ t, s.Unwinds t ∧ t.stream k = some st ∧ t.tracker k = s.tracker k ∧
      (t.dropProducer p k).Unwinds (s.unwound p) ∧ (s.unwound p).stream k = (t.dropProducer p k).stream k ∧
      (s.unwound p).tracker k = (t.dropProducer p k).tracker k := by
  obtain ⟨hst1, htracker1⟩ := State.departed_of_notMember p hst hc
  obtain ⟨hst2, htracker2⟩ := State.holdsEnded_of_notClosing p hst1 hopen
  obtain ⟨t, hbefore, hstream, htracker, hafter⟩ :=
    (State.dropProducer_part p).at_stream k ((s.departed p).holdsEnded p)
  exact ⟨t, ((s.departed_unwinds p).trans (State.holdsEnded_unwinds _ p)).trans hbefore, hstream.trans hst2,
    htracker.trans (htracker2.trans htracker1), hafter⟩

variable (hp : st.producer = p) (hx : st.producerPresent = true) (hc : ∀ c ∈ st.consumers, c.port ≠ p)
include hp hx hc

theorem State.unwound_orphaned (ho : st.phase = .opened) (hcs : st.consumers ≠ []) :
    (∃ free, (s.unwound p).stream k = some { st with
      phase := .orphaned, producerPresent := false, producerWaiting := false, free := free }) ∧
    (s.unwound p).tracker k = (s.tracker k).orphan := by
  obtain ⟨t, -, ht, htracker, -, hstream, htracker'⟩ := State.unwound_at p hst hc (by simp [ho])
  obtain ⟨free, waiting, hleft⟩ := State.producerLeft_stream ht
  rw [hstream, htracker', State.dropProducer_of_orphaned ht hp hx ho hcs, State.orphan_stream hleft,
    State.orphan_tracker hleft, State.producerLeft_tracker, htracker]
  exact ⟨⟨free, rfl⟩, rfl⟩

theorem State.unwound_closed (h : st.phase = .preparing ∨ (st.phase = .opened ∧ st.consumers = [])) {st' : Stream}
    (hu : (s.unwound p).stream k = some st') :
    st'.phase = .closing .departure ∧ st'.producerPresent = false ∧ st'.consumers = [] ∧ st'.ready = [] := by
  have hopen : ∀ o, st.phase ≠ .closing o := by rcases h with h | ⟨h, -⟩ <;> simp [h]
  obtain ⟨t, -, ht, -, -, hstream, -⟩ := State.unwound_at p hst hc hopen
  obtain ⟨free, waiting, hleft⟩ := State.producerLeft_stream ht
  rw [hstream, State.dropProducer_of_closed ht hp hx h] at hu
  obtain ⟨free', rfl⟩ := State.enterClosing_stream _ hleft hu
  exact ⟨rfl, rfl, rfl, rfl⟩

theorem State.unwound_writer (hopen : ∀ o, st.phase ≠ .closing o) {i : RecordId} (hn : (s.record i).names k = true)
    (hone : ∀ j, (s.record j).names k = true → (s.record j).writer ≠ none → j = i) :
    ((s.unwound p).record i).writer = none := by
  obtain ⟨t, hbefore, ht, -, hafter, -⟩ := State.unwound_at p hst hc hopen
  have hother : ∀ j, j ≠ i → (t.record j).names k = true → (t.record j).writer = none := by
    intro j hj hnj
    rcases hbefore.assignment j with ha | ha
    · rw [BufferRecord.names_congr ha] at hnj
      exact hbefore.writer_none (by_contra fun hw => hj (hone j hnj hw))
    · exact (BufferRecord.idle_of_unassigned ha).1
  refine hafter.writer_none ((State.dropProducer_after ht hp hx).writer_none ?_)
  rcases hbefore.names hn with hn' | hnone
  · exact State.producerLeft_writer hn' hother
  · exact (State.producerLeft_unwinds t k).writer_none (BufferRecord.idle_of_unassigned hnone).1

end

/-! ## Notices -/

/-- What a departure owes the producer of a stream the port consumes (R89). -/
def leftDue (p : Port) (live : Option Stream) (k : StreamId) (q : Port)
    (n : NoticeKind × StreamId × Option (BitVec 32)) : Prop :=
  n = (.consumerLeft, k, some (BitVec.ofNat 32 p.val)) ∧ ∃ st, live = some st ∧
    (∃ c ∈ st.consumers, c.port = p) ∧ st.producer = q ∧ st.producerPresent = true

/-- What an orphaned stream owes its consumers (R39). -/
def goneDue (p : Port) (live : Option Stream) (k : StreamId) (q : Port)
    (n : NoticeKind × StreamId × Option (BitVec 32)) : Prop :=
  n = (.producerGone, k, none) ∧ ∃ st, live = some st ∧ st.producer = p ∧ st.producerPresent = true ∧
    st.phase = .opened ∧ ∃ c ∈ st.consumers, c.port = q

theorem State.departIfMember_told (k : StreamId) (q : Port) : ∃ sent, (∀ n ∈ sent, n.1 ∈ windKinds) ∧
    (∀ n, leftDue p (s.stream k) k q n → n ∈ sent) ∧
    (s.departIfMember p k).port q = (s.port q).told s.timebase sent := by
  by_cases hdue : ∃ st, s.stream k = some st ∧ ∃ c ∈ st.consumers, c.port = p
  · obtain ⟨st, hst, hm⟩ := hdue
    obtain ⟨sent, hkinds, hleft, hport⟩ := State.depart_told (p := p) hst q
    rw [State.departIfMember_of_member hst hm]
    refine ⟨sent, hkinds, ?_, hport⟩
    rintro n ⟨rfl, st', hst', -, hproducer, hpresent⟩
    rw [hst] at hst'
    cases hst'
    exact hleft hproducer hpresent
  · obtain ⟨sent, hkinds, hport⟩ := (s.departIfMember_winds k p).told q
    refine ⟨sent, hkinds, ?_, hport⟩
    rintro n ⟨-, st, hst, hm, -⟩
    exact absurd ⟨st, hst, hm⟩ hdue

theorem State.dropProducer_told (k : StreamId) (q : Port) : ∃ sent, (∀ n ∈ sent, n.1 ∈ windKinds) ∧
    (∀ n, goneDue p (s.stream k) k q n → n ∈ sent) ∧
    (s.dropProducer p k).port q = (s.port q).told s.timebase sent := by
  by_cases hdue : ∃ n, goneDue p (s.stream k) k q n
  · obtain ⟨n, rfl, st, hst, hp, hx, ho, hc⟩ := hdue
    obtain ⟨free, waiting, hleft⟩ := State.producerLeft_stream hst
    have hbefore := (State.producerLeft_unwinds s k).winds
    obtain ⟨sent, hkinds, hport⟩ := hbefore.told q
    have hcs : st.consumers ≠ [] := by
      obtain ⟨c, hc, -⟩ := hc
      exact List.ne_nil_of_mem hc
    have hmem : q ∈ st.consumers.map Consumer.port := List.mem_map.2 hc
    refine ⟨sent ++ List.replicate ((st.consumers.map Consumer.port).count q) (.producerGone, k, none),
      fun n hn => ?_, ?_, ?_⟩
    · rcases List.mem_append.1 hn with hn | hn
      · exact hkinds n hn
      · rw [List.eq_of_mem_replicate hn]
        simp [windKinds]
    · rintro n ⟨rfl, -⟩
      exact List.mem_append_right _ (List.mem_replicate.2 ⟨(List.count_pos_iff.2 hmem).ne', rfl⟩)
    · rw [State.dropProducer_of_orphaned hst hp hx ho hcs, State.orphan_port hleft, hport, hbefore.timebase,
        AgentPort.told_append]
  · obtain ⟨sent, hkinds, hport⟩ := (s.dropProducer_winds k p).told q
    exact ⟨sent, hkinds, fun n hn => absurd ⟨n, hn⟩ hdue, hport⟩

/-- What every port is told, step by step. -/
theorem State.unwound_told (q : Port) : ∃ sent, (∀ n ∈ sent, n.1 ∈ windKinds) ∧
    (∀ k n, leftDue p (s.stream k) k q n → n ∈ sent) ∧
    (∀ k n, goneDue p (((s.departed p).holdsEnded p).stream k) k q n → n ∈ sent) ∧
    (s.unwound p).port q = (s.port q).told s.timebase sent := by
  have h1 := (s.departed_unwinds p).winds
  have h2 := (State.holdsEnded_unwinds (s.departed p) p).winds
  obtain ⟨sent1, hkinds1, hdue1, hport1⟩ := (State.departIfMember_part p).foldl_told (due := leftDue p)
    (fun s k q => s.departIfMember_told p k q) (List.nodup_finRange 16) s q
  obtain ⟨sent2, hkinds2, hport2⟩ := h2.told q
  obtain ⟨sent3, hkinds3, hdue3, hport3⟩ := (State.dropProducer_part p).foldl_told (due := goneDue p)
    (fun s k q => s.dropProducer_told p k q) (List.nodup_finRange 16) ((s.departed p).holdsEnded p) q
  refine ⟨sent1 ++ sent2 ++ sent3, fun n hn => ?_, fun k n hn => ?_, fun k n hn => ?_, ?_⟩
  · rcases List.mem_append.1 hn with hn | hn
    · exact (List.mem_append.1 hn).elim (hkinds1 n) (hkinds2 n)
    · exact hkinds3 n hn
  · exact List.mem_append_left _ (List.mem_append_left _ (hdue1 k (List.mem_finRange k) n hn))
  · exact List.mem_append_right _ (hdue3 k (List.mem_finRange k) n hn)
  · have h1' : (s.departed p).port q = (s.port q).told s.timebase sent1 := hport1
    have h3' : (s.unwound p).port q =
        (((s.departed p).holdsEnded p).port q).told ((s.departed p).holdsEnded p).timebase sent3 := hport3
    rw [h3', hport2, h1', h2.timebase, h1.timebase, AgentPort.told_append, AgentPort.told_append]

/-- Notices leave the expired-handle list. -/
theorem AgentPort.told_expired (now : Time) (sent : List (NoticeKind × StreamId × Option (BitVec 32)))
    (q : AgentPort) : (q.told now sent).expired = q.expired := by
  induction sent generalizing q with
  | nil => rfl
  | cons n sent ih => exact (ih _).trans (AgentPort.enqueue_expired ..)

theorem State.clearExpired_port (s : State) (p q : Port) :
    (s.clearExpired p).port q = { s.port q with expired := if q = p then [] else (s.port q).expired } := by
  rw [State.clearExpired, State.modPort, State.setPort_port]
  by_cases h : q = p
  · subst h
    rw [if_pos rfl, if_pos rfl]
  · rw [if_neg h, if_neg (Ne.symm h)]

end

/-- Settles O17: each clause is about one step of the detach actions, whose achievements the later steps keep. -/
theorem detachActionsRemoveThePort : Obligations.DetachActionsRemoveThePort := by
  unfold Obligations.DetachActionsRemoveThePort
  rintro s _ p rfl
  have hkeeps := s.detachActions_keeps p
  obtain ⟨hstream, htracker, hrecord⟩ := s.detachActions_reads p
  simp only [hstream, htracker, hrecord]
  refine ⟨fun k st hst => ⟨s.unwound_noConsumer p hst, s.unwound_absent p hst⟩, fun hholds i => ?held,
    fun k st hst hp hx hc => ⟨fun ho hcs => State.unwound_orphaned p hst hp hx hc ho hcs,
      fun h st' hu => State.unwound_closed p hst hp hx hc h hu,
      fun hopen i hn _ hone => State.unwound_writer p hst hp hx hc hopen hn hone⟩,
    fun q => ?ports, fun i => (s.unwound_unwinds p).generation i, ?rest⟩
  case held =>
    by_cases hheld : (s.record i).heldBy p = true
    · obtain ⟨k, st, hn, hst, hway⟩ := hholds i hheld
      exact State.unwound_heldBy p hst hway hn
    · exact (s.unwound_unwinds p).not_held (Bool.eq_false_iff.2 hheld)
  case ports =>
    obtain ⟨sent, hkinds, hleft, hgone, hport⟩ := s.unwound_told p q
    refine ⟨sent, hkinds, fun k st hst hm hq hx => hleft k _ ⟨rfl, st, hst, hm, hq, hx⟩,
      fun k st hst hp hx ho hc hq => hgone k _ ⟨rfl, st, ?_, hp, hx, ho, hq⟩, ?_⟩
    · exact (State.holdsEnded_of_notClosing p (State.departed_of_notMember p hst hc).1 (by simp [ho])).1
    · rw [State.detachActions_eq, State.clearExpired_port, hport, AgentPort.told_expired]
      rfl
  case rest =>
    rw [← hkeeps.core, ← hkeeps.pointer, ← hkeeps.timebase, ← hkeeps.resetAsserted, ← hkeeps.fillBeats,
      ← hkeeps.pending]

end Sys2Proof.Machine
end

section
/-! PROOF. The end of a session (R176, R179). -/

namespace Sys2Proof.Machine

/-! ## A NOTICE under way (R188) -/

/-- A transaction once the queue was emptied twice over: the same as once. -/
theorem Transaction.endTransfer_tallyHead (amount : BitVec 32) (x : Transaction) :
    (x.tallyHead amount).endTransfer = x.endTransfer := by
  cases x with
  | notice copy transfer tally sum => cases transfer <;> rfl
  | _ => rfl

/-- A notice under way before an enqueueing and after it, once the queue was emptied (R188). -/
theorem AgentPort.enqueue_endTransfer (kind : NoticeKind) (k : StreamId) (detail : Option (BitVec 32)) (now : Time)
    (q : AgentPort) : (q.enqueue kind k detail now).transaction.map Transaction.endTransfer =
      q.transaction.map Transaction.endTransfer := by
  have hgather : ∀ j f amount, (q.gather j f amount).transaction.map Transaction.endTransfer =
      q.transaction.map Transaction.endTransfer := by
    intro j f amount
    simp only [AgentPort.gather]
    split
    · rw [Option.map_map]
      exact congrArg (fun g => q.transaction.map g) (funext (Transaction.endTransfer_tallyHead amount))
    · rfl
  unfold AgentPort.enqueue
  split
  · rfl
  split
  · rfl
  split
  · exact hgather _ _ _
  split
  · rfl
  · unfold AgentPort.lose
    split
    · exact hgather _ _ _
    · rfl


theorem AgentPort.told_endTransfer (now : Time) (sent : List (NoticeKind × StreamId × Option (BitVec 32)))
    (q : AgentPort) : (q.told now sent).transaction.map Transaction.endTransfer =
      q.transaction.map Transaction.endTransfer := by
  induction sent generalizing q with
  | nil => rfl
  | cons n sent ih => exact (ih _).trans (AgentPort.enqueue_endTransfer ..)

/-- What the obligation calls the emptied transaction. -/
theorem Transaction.map_endTransfer (emptied : Option Transaction → Option Transaction)
    (h : ∀ x, emptied x = match x with
      | some (.notice copy _ _ _) => some (.notice copy false 0 0)
      | x => x) (x : Option Transaction) : emptied x = x.map Transaction.endTransfer := by
  rw [h]
  cases x with
  | none => rfl
  | some y => cases y <;> rfl

/-! ## The port behind the detach actions -/

/-- The port whose session ends: its list is empty, and a NOTICE under way is the same but for its tally. -/
theorem State.detachActions_port_self (s : State) (p : Port) :
    ((s.detachActions p).port p).expired = [] ∧
      ((s.detachActions p).port p).transaction.map Transaction.endTransfer =
        (s.port p).transaction.map Transaction.endTransfer := by
  obtain ⟨sent, -, -, -, hport⟩ := s.unwound_told p p
  rw [State.detachActions_eq, State.clearExpired_port, if_pos rfl, hport]
  exact ⟨rfl, AgentPort.told_endTransfer ..⟩

/-- DETACHED, unless the port is RESETTING (R178). -/
theorem PortState.moveTo_detached (x : PortState) :
    PortState.moveTo .detached x = if x = .resetting then .resetting else .detached := by
  cases x <;> rfl

/-- A port whose session ended, whatever its state becomes (R176, R179). -/
structure AgentPort.Ended (q r : AgentPort) : Prop where
  inForce : r.inForce = false
  notices : r.notices = []
  mask : r.mask = 0
  responseAttention : r.responseAttention = false
  noticeAttention : r.noticeAttention = false
  expired : r.expired = q.expired
  session : r.session = q.session
  response : r.response = q.response
  transaction : r.transaction = q.transaction.map Transaction.endTransfer
  rejected : r.rejected = q.rejected
  frameError : r.frameError = q.frameError

theorem AgentPort.detach_ended (q : AgentPort) : q.Ended q.detach := ⟨rfl, rfl, rfl, rfl, rfl, rfl, rfl, rfl, rfl, rfl, rfl⟩

theorem AgentPort.endForcedDetach_ended (q : AgentPort) : q.Ended q.endForcedDetach :=
  ⟨rfl, rfl, rfl, rfl, rfl, rfl, rfl, rfl, rfl, rfl, rfl⟩

theorem AgentPort.endForcedDetach_slots (q : AgentPort) :
    q.endForcedDetach.state = .detached ∧ q.endForcedDetach.request = .empty := ⟨rfl, rfl⟩

/-- The forced detach of a port without a session touches nothing but the port (R179). -/
theorem State.forceDetach_of_noSession {s : State} {p : Port} (h : (s.port p).inForce = false) :
    s.forceDetach p = s.setPort p ({ s.port p with expired := [] } : AgentPort).endForcedDetach := by
  rw [State.forceDetach, h, if_neg (by simp), State.clearExpired, State.modPort, State.modPort,
    State.setPort_port_self, State.setPort_setPort]

theorem State.forceDetach_of_session {s : State} {p : Port} (h : (s.port p).inForce = true) :
    s.forceDetach p = (s.detachActions p).setPort p ((s.detachActions p).port p).endForcedDetach := by
  rw [State.forceDetach, if_pos h]
  rfl

theorem exec_forcedDetach {s : State} {p : Port} {t : Time}
    (h : s.core = some { item := .forcedDetach p, takenAt := t }) :
    exec (.forcedDetach p) s = .next (s.forceDetach p).finish := by
  have harm : exec (.forcedDetach p) s = execForcedDetach p s := rfl
  simp [harm, execForcedDetach, h]

/-- Settles O16: the detach actions leave the port but for notices, then the session ends. -/
theorem detachEndsTheSession : Obligations.DetachEndsTheSession := by
  unfold Obligations.DetachEndsTheSession
  intro s p emptied hemptied
  replace hemptied := Transaction.map_endTransfer emptied hemptied
  obtain ⟨hexpired, htransfer⟩ := s.detachActions_port_self p
  have hfixed := ((s.detachActions_keeps p).ports p).fixed
  have hstate := congrArg AgentPort.state hfixed
  have hsession := congrArg AgentPort.session hfixed
  have hresponse := congrArg AgentPort.response hfixed
  have hrejected := congrArg AgentPort.rejected hfixed
  have hframe := congrArg AgentPort.frameError hfixed
  refine ⟨fun f t hx hs hk => ?detach, fun t hcore => ?forced⟩
  case detach =>
    have hbody := detachRequest_eq p f t s
    rw [if_neg (by simp [hs.1]), if_neg (not_not.2 hs.2)] at hbody
    have hend := AgentPort.detach_ended ((s.detachActions p).port p)
    refine ⟨_, exec_of_body .detach hx hk hbody, hend.inForce, hend.notices, hend.mask, hend.responseAttention,
      hend.noticeAttention, hend.expired.trans hexpired, hend.session.trans hsession, hend.rejected.trans hrejected,
      hend.frameError.trans hframe, (hend.transaction.trans htransfer).trans (hemptied _).symm, ?_⟩
    rw [AgentPort.detach, PortState.moveTo_detached, hstate]
  case forced =>
    rw [exec_forcedDetach hcore]
    cases hforce : (s.port p).inForce with
    | true =>
      have hend := AgentPort.endForcedDetach_ended ((s.detachActions p).port p)
      obtain ⟨hdetached, hempty⟩ := AgentPort.endForcedDetach_slots ((s.detachActions p).port p)
      rw [State.forceDetach_of_session hforce, if_pos rfl]
      exact ⟨_, rfl, hdetached, hempty, hend.inForce, hend.notices, hend.mask, hend.responseAttention,
        hend.noticeAttention, hend.expired.trans hexpired, hend.session.trans hsession,
        hend.response.trans hresponse, (hend.transaction.trans htransfer).trans (hemptied _).symm,
        hend.rejected.trans hrejected, hend.frameError.trans hframe⟩
    | false =>
      have hend := AgentPort.endForcedDetach_ended { s.port p with expired := [] }
      obtain ⟨hdetached, hempty⟩ := AgentPort.endForcedDetach_slots { s.port p with expired := [] }
      rw [State.forceDetach_of_noSession hforce, if_neg (by simp)]
      exact ⟨_, rfl, hdetached, hempty, hend.inForce, hend.notices, hend.mask, hend.responseAttention,
        hend.noticeAttention, hend.expired, hend.session, hend.response, hend.transaction.trans (hemptied _).symm,
        hend.rejected, hend.frameError⟩

end Sys2Proof.Machine
end
